-- ==== Sys2Proof/Word.lean ====
section
/-! DEFINITION. The word types of the serial frame block (00_scope.md R12, R13). -/

namespace Sys2Proof

/-- `u8`: one byte (R12). -/
abbrev Byte := BitVec 8

/-- `u16`: the flags field, a checksum, the accumulator `crc` (R12). -/
abbrev Half := BitVec 16

/-- `u32`: the pattern of a four-byte value (R12). -/
abbrev Word := BitVec 32

end Sys2Proof
end

