-- ==== Sys2Proof/Config.lean ====
section
/-! DEFINITION. The fixed constants (00_scope.md R8), the two open parameters (R9), and the free values: what the spec
leaves without any value (93_implementation_defined.md U1, U9, U10, U11, U15). -/

namespace Sys2Proof

/-- `START_BYTE` (R8). -/
abbrev startByte : Byte := 0xAA

/-- `MAX_PLEN` (R8): the largest payload length. -/
abbrev maxPlen : Nat := 1023

/-- `MAX_FRAME_BYTES` (R8): `5 + MAX_PLEN`, also the smallest legal `BUF_CAP` (R9). -/
abbrev maxFrameBytes : Nat := 1028

/-- `OPC_PRODUCT_NAME` (R8). -/
abbrev opcProductName : Byte := 0

/-- `OPC_DISTANCE` (R8). -/
abbrev opcDistance : Byte := 44

/-- `OPC_SCAN_ENABLE` (R8). -/
abbrev opcScanEnable : Byte := 96

/-- The legal values of the parameter `INT16_DECLARED_PLEN` (R9, decision D4). -/
inductive Int16Plen where
  | three
  | four
  deriving DecidableEq, Repr

/-- The declared payload length as a number (R9). -/
def Int16Plen.toNat : Int16Plen → Nat
  | .three => 3
  | .four => 4

/-- The parameters of R9, fixed when the block is built (R30): no operation writes them. They stand in the machine's
state so that every statement over states is a statement over every configuration. -/
structure Config where
  /-- `BUF_CAP`, legal from 1028 up (decision D3). -/
  bufCap : Nat := 1028
  /-- `INT16_DECLARED_PLEN` (decision D4). -/
  int16DeclaredPlen : Int16Plen := .three
  deriving DecidableEq, Repr

/-- The legal configurations: `BUF_CAP ≥ 1028` (R9). The other parameter has no illegal value. -/
abbrev Config.legal (c : Config) : Prop := maxFrameBytes ≤ c.bufCap

/-- A number in the host's floating-point format, named by a code: the width and the format are not in the spec
(93_implementation_defined.md U10). -/
structure HostFloat where
  code : Nat
  deriving DecidableEq, Repr, Inhabited

/-- A text as its character codes. -/
abbrev Text := List Nat

/-- The four write shapes of the encoder (41_encoder.md R135 to R138). -/
inductive WriteShape where
  | int8
  | int16
  | int32
  | float
  deriving DecidableEq, Repr, Inhabited

/-- One write command: a shape, an opcode and a value pattern (the low bits of `value` that the shape takes). -/
structure WriteCommand where
  shape : WriteShape
  op : Byte
  value : Word
  deriving DecidableEq, Repr, Inhabited

/-- The ten commands of the session start, in the order of 43_surroundings.md R209. -/
inductive CatalogStep where
  | disableStreaming
  | disableScanning
  | requestProduct
  | setLowAngle
  | setHighAngle
  | setUpdateRate
  | setCycleSpeed
  | setDistanceInfo
  | enableStreaming
  | enableScanning
  deriving DecidableEq, Repr

/-- FREE VALUE (U1). What a read of `buf` answers at an index that holds no byte of the current frame: "an unspecified
byte there (a draw), never zero" (20_memory.md R52). -/
opaque Config.unspecifiedByte : Nat → Byte

/-- FREE VALUE (U11). The text the host makes of 16 name bytes that are not all printable. -/
opaque Config.textOf : List Byte → Text

/-- FREE VALUE (U10). The host's float of an integer. -/
opaque Config.floatOfInt : Int → HostFloat

/-- FREE VALUE (U10). The host's division by 100.0 (43_surroundings.md R202). -/
opaque Config.floatDiv100 : HostFloat → HostFloat

/-- FREE VALUE (U10). The host's `angleDegrees * π/180` (R202). -/
opaque Config.floatRadians : HostFloat → HostFloat

/-- FREE VALUE (U10). The host's sine (R202). -/
opaque Config.floatSin : HostFloat → HostFloat

/-- FREE VALUE (U10). The host's cosine (R202). -/
opaque Config.floatCos : HostFloat → HostFloat

/-- FREE VALUE (U10). The host's product (R202). -/
opaque Config.floatMul : HostFloat → HostFloat → HostFloat

/-- FREE VALUE (U15). The write command of each session-start step whose opcode, shape and value are not given
(43_surroundings.md R210): nothing is invented for them. -/
opaque Config.catalogWrite : CatalogStep → WriteCommand

/-- FREE VALUE (91_not_in_source.md N8). The write command of `sendWritePosition(degrees)`: its opcode, shape and scaling
are not given. -/
opaque Config.positionWrite : HostFloat → WriteCommand

end Sys2Proof
end

