-- ==== Sys2Proof/Machine/Operands.lean ====
section
/-! DEFINITION. The byte-order helpers (00_scope.md R14, 20_memory.md R54) and the patterns of the value operands
(30_encoding.md R87). -/

namespace Sys2Proof.Machine

/-- `lo8(v) = v[7:0]` (R14). -/
def lo8 (v : Half) : Byte := v.setWidth 8

/-- `hi8(v) = v[15:8]` (R14). -/
def hi8 (v : Half) : Byte := (v >>> 8).setWidth 8

/-- `le16(b0, b1) = b0 | (b1 << 8)` (R14). -/
def le16 (b0 b1 : Byte) : Half := b0.setWidth 16 ||| (b1.setWidth 16 <<< 8)

/-- The 32-bit value whose bytes are given, least significant first: the inverse of `bytesLe32`. -/
def le32 (b0 b1 b2 b3 : Byte) : Word :=
  b0.setWidth 32 ||| (b1.setWidth 32 <<< 8) ||| (b2.setWidth 32 <<< 16) ||| (b3.setWidth 32 <<< 24)

/-- `bytes_le(v, 2)` (R14). -/
def bytesLe16 (v : Half) : List Byte := [lo8 v, hi8 v]

/-- `bytes_le(v, 4)` (R14): byte `k` is `v[8k+7:8k]`. -/
def bytesLe32 (v : Word) : List Byte :=
  [v.setWidth 8, (v >>> 8).setWidth 8, (v >>> 16).setWidth 8, (v >>> 24).setWidth 8]

end Sys2Proof.Machine
end

