-- ==== Sys2Proof/Machine/Flags.lean ====
section
/-! DEFINITION. The flags field of a frame (30_encoding.md R81): how the encoder assembles it (R85), how the decoder takes
it apart (R86). -/

namespace Sys2Proof.Machine

/-- `(payloadLength << 6) | writeFlag`, modulo 2^16 (R85): the reserved bits come out 0. -/
def assembleFlags (n : Nat) (wf : BitVec 1) : Half := (BitVec.ofNat 16 n <<< 6) ||| wf.setWidth 16

/-- A flags field with given reserved bits `flags[5:1]` (R81), as a sender that sets them would write it. -/
def packFlags (n : Nat) (rsv : BitVec 5) (wf : BitVec 1) : Half := assembleFlags n wf ||| (rsv.setWidth 16 <<< 1)

/-- `flags >> 6` before it is narrowed to `plen` (42_decoder.md R164). -/
def flagsPlenRaw (flags : Half) : Half := flags >>> 6

/-- `payloadLength = flags[15:6]` (R86). -/
def flagsPlen (flags : Half) : BitVec 10 := (flags >>> 6).setWidth 10

/-- `writeFlag = flags & 1` (R86). -/
def flagsWriteFlag (flags : Half) : BitVec 1 := (flags &&& 1).setWidth 1

/-- The reserved bits `flags[5:1]` (R81, R88). -/
def flagsReserved (flags : Half) : BitVec 5 := (flags >>> 1).setWidth 5

end Sys2Proof.Machine
end

