-- ==== Sys2Proof/Syntax.lean ====
section
/-! DEFINITION. The operations of the block, one constructor for each row of spec/opcode_table.json: the thirteen
operations (30_encoding.md R94), the three `sel` codes that select nothing, and the four wire formats (R80, R96). -/

namespace Sys2Proof

/-- One constructor per row of the opcode table. Signed and float operands are bit patterns (41_encoder.md R133, R138). -/
inductive Instr where
  /-- `CRC.INIT` (R114). -/
  | crcInit
  /-- `CRC.STEP b` (R115). -/
  | crcStep (b : Byte)
  /-- `CRC.READ` (R117). -/
  | crcRead
  /-- `CRC.BLOCK s` (R118). -/
  | crcBlock (bytes : List Byte)
  /-- `ENC.FRAME op, wf, val` (R130). -/
  | encFrame (op : Byte) (wf : BitVec 1) (val : List Byte)
  /-- `ENC.GET op` (R134). -/
  | encGet (op : Byte)
  /-- `ENC.WR8 op, v` (R135). -/
  | encWr8 (op : Byte) (v : Byte)
  /-- `ENC.WR16 op, v` (R136). -/
  | encWr16 (op : Byte) (v : Half)
  /-- `ENC.WR32 op, v` (R137). -/
  | encWr32 (op : Byte) (v : Word)
  /-- `ENC.WRF op, p` (R138). -/
  | encWrf (op : Byte) (p : Word)
  /-- `DEC.RX b` (R160). -/
  | decRx (b : Byte)
  /-- `DEC.RXN s` (R168). -/
  | decRxn (bytes : List Byte)
  /-- `DEC.RESET` (R170). -/
  | decReset
  /-- The code `sel = 0xD`, which selects nothing (R94). -/
  | selD
  /-- The code `sel = 0xE`, which selects nothing (R94). -/
  | selE
  /-- The code `sel = 0xF`, which selects nothing (R94). -/
  | selF
  /-- The frame as received by `DEC.RX` (R80): write flag, reserved flag bits, payload, transmitted checksum. -/
  | frameRx (wf : BitVec 1) (rsv : BitVec 5) (payload : List Byte) (ck : Half)
  /-- The product-name message (R96, R201): a received frame with opcode 0 and 16 bytes of text. -/
  | msgProductName (wf : BitVec 1) (rsv : BitVec 5) (text : List Byte) (ck : Half)
  /-- The distance-sample message (R96, R202): a received frame with opcode 44, the three fields and any further data. -/
  | msgDistanceSample (wf : BitVec 1) (rsv : BitVec 5) (first last angle : Half) (extra : List Byte) (ck : Half)
  /-- The scan-enable message (R96), from the host to the device. -/
  | msgScanEnable
  deriving DecidableEq, Repr

/-- The operation-select code of the command port (the `sel` column of R94); the wire formats have none. -/
def Instr.sel : Instr → Option (BitVec 4)
  | .crcInit => some 0x0
  | .crcStep _ => some 0x1
  | .crcRead => some 0x2
  | .crcBlock _ => some 0x3
  | .encFrame _ _ _ => some 0x4
  | .encGet _ => some 0x5
  | .encWr8 _ _ => some 0x6
  | .encWr16 _ _ => some 0x7
  | .encWr32 _ _ => some 0x8
  | .encWrf _ _ => some 0x9
  | .decRx _ => some 0xA
  | .decRxn _ => some 0xB
  | .decReset => some 0xC
  | .selD => some 0xD
  | .selE => some 0xE
  | .selF => some 0xF
  | .frameRx _ _ _ _ => none
  | .msgProductName _ _ _ _ => none
  | .msgDistanceSample _ _ _ _ _ _ _ => none
  | .msgScanEnable => none

end Sys2Proof
end

