-- ==== Sys2Proof/WellFormed.lean ====
section
/-! DEFINITION. The operand ranges the types of `Instr` do not already fix (41_encoder.md R130, 30_encoding.md R80, R96). -/

namespace Sys2Proof

/-- The payload of a product-name message: opcode 0 and 16 bytes of text (R96). -/
def isProductNamePayload : List Byte → Bool
  | op :: text => op == opcProductName && text.length == 16
  | [] => false

/-- The payload of a distance-sample message: opcode 44 and at least the six bytes of the three fields (R96). -/
def isDistancePayload : List Byte → Bool
  | op :: data => op == opcDistance && decide (6 ≤ data.length)
  | [] => false

/-- The one frame of the scan-enable message, `AA 81 00 60 01 4D DC` (R96), by its fields. -/
def isScanEnableFrame (wf : BitVec 1) (rsv : BitVec 5) (payload : List Byte) (ck : Half) : Bool :=
  wf == 1 && rsv == 0 && payload == [opcScanEnable, 1] && ck == 0xDC4D

/-- An operation whose operands are in range. A received frame is written with the constructor of its own row: the
message formats of R96 are excluded from the general row. -/
def Instr.wellFormed : Instr → Bool
  | .crcInit => true
  | .crcStep _ => true
  | .crcRead => true
  | .crcBlock _ => true
  | .encFrame _ _ val => decide (val.length ≤ 1022)
  | .encGet _ => true
  | .encWr8 _ _ => true
  | .encWr16 _ _ => true
  | .encWr32 _ _ => true
  | .encWrf _ _ => true
  | .decRx _ => true
  | .decRxn _ => true
  | .decReset => true
  | .selD => true
  | .selE => true
  | .selF => true
  | .frameRx wf rsv payload ck =>
    decide (payload.length ≤ maxPlen) && !isProductNamePayload payload && !isDistancePayload payload
      && !isScanEnableFrame wf rsv payload ck
  | .msgProductName _ _ text _ => text.length == 16
  | .msgDistanceSample _ _ _ _ _ extra _ => decide (extra.length ≤ 1016)
  | .msgScanEnable => true

end Sys2Proof
end

