-- ==== Sys2Proof/Decode.lean ====
section
/-! DEFINITION. Decoding and encoding. Bytes whose first byte is `0xAA` are a frame on the wire (30_encoding.md R80, R96).
Any other first byte holds the operation select of the command port in its low four bits (R94; decision D2 gives the port's
fields) and the operands follow it. DESIGN CHOICE (log entry 1): the spec gives the port's fields and no byte layout; the
layout here is the model's: fixed-width operands least significant byte first, a byte sequence as `01 b` per byte and a
closing `00`. -/

namespace Sys2Proof

open Sys2Proof.Machine

/-- Why bytes are no operation. Raised by `decode`; safe: the step refuses and proves nothing about the hardware. -/
inductive DecodeError where
  /-- The bytes end before the operands do, or there is no byte at all. -/
  | truncated
  /-- A write-flag operand that is neither 0 nor 1 (30_encoding.md R97). -/
  | badWriteFlag
  /-- A sequence mark that is neither `00` nor `01` (the model's layout). -/
  | badSequenceMark
  deriving DecidableEq, Repr

/-- Reads one byte. -/
def readByte : List Byte → Except DecodeError (Byte × List Byte)
  | b :: rest => .ok (b, rest)
  | [] => .error .truncated

/-- Reads a 16-bit operand, low byte first. -/
def readHalf : List Byte → Except DecodeError (Half × List Byte)
  | b0 :: b1 :: rest => .ok (le16 b0 b1, rest)
  | _ => .error .truncated

/-- Reads a 32-bit operand, low byte first. -/
def readWord : List Byte → Except DecodeError (Word × List Byte)
  | b0 :: b1 :: b2 :: b3 :: rest => .ok (le32 b0 b1 b2 b3, rest)
  | _ => .error .truncated

/-- Reads a write-flag operand. -/
def readWriteFlag : List Byte → Except DecodeError (BitVec 1 × List Byte)
  | b :: rest => if b = 0 then .ok (0, rest) else if b = 1 then .ok (1, rest) else .error .badWriteFlag
  | [] => .error .truncated

/-- Reads a byte-sequence operand: `01 b` for each byte, `00` at the end. -/
def readSeq : List Byte → Except DecodeError (List Byte × List Byte)
  | [] => .error .truncated
  | [m] => if m = 0 then .ok ([], []) else if m = 1 then .error .truncated else .error .badSequenceMark
  | m :: b :: rest =>
    if m = 0 then .ok ([], b :: rest)
    else if m = 1 then
      match readSeq rest with
      | .ok (bytes, rest') => .ok (b :: bytes, rest')
      | .error e => .error e
    else .error .badSequenceMark

/-- Gives an operation its operand, and hands the rest on. -/
def withOperand {α : Type} (r : Except DecodeError (α × List Byte)) (f : α → List Byte → Except DecodeError (Instr × List Byte)) :
    Except DecodeError (Instr × List Byte) :=
  match r with
  | .ok (a, rest) => f a rest
  | .error e => .error e

/-- The operation a `sel` code selects (R94), with its operands read from `bytes`. The last arm is `sel = 0xF`. -/
def decodeCommand (sel : BitVec 4) (bytes : List Byte) : Except DecodeError (Instr × List Byte) :=
  match sel.toNat with
  | 0 => .ok (.crcInit, bytes)
  | 1 => withOperand (readByte bytes) fun b rest => .ok (.crcStep b, rest)
  | 2 => .ok (.crcRead, bytes)
  | 3 => withOperand (readSeq bytes) fun s rest => .ok (.crcBlock s, rest)
  | 4 => withOperand (readByte bytes) fun op r1 => withOperand (readWriteFlag r1) fun wf r2 =>
      withOperand (readSeq r2) fun val rest => .ok (.encFrame op wf val, rest)
  | 5 => withOperand (readByte bytes) fun op rest => .ok (.encGet op, rest)
  | 6 => withOperand (readByte bytes) fun op r1 => withOperand (readByte r1) fun v rest => .ok (.encWr8 op v, rest)
  | 7 => withOperand (readByte bytes) fun op r1 => withOperand (readHalf r1) fun v rest => .ok (.encWr16 op v, rest)
  | 8 => withOperand (readByte bytes) fun op r1 => withOperand (readWord r1) fun v rest => .ok (.encWr32 op v, rest)
  | 9 => withOperand (readByte bytes) fun op r1 => withOperand (readWord r1) fun p rest => .ok (.encWrf op p, rest)
  | 10 => withOperand (readByte bytes) fun b rest => .ok (.decRx b, rest)
  | 11 => withOperand (readSeq bytes) fun s rest => .ok (.decRxn s, rest)
  | 12 => .ok (.decReset, bytes)
  | 13 => .ok (.selD, bytes)
  | 14 => .ok (.selE, bytes)
  | _ => .ok (.selF, bytes)

/-- The row of the table that a frame's fields belong to: the message formats of R96 first, else the general frame. -/
def wireInstr (wf : BitVec 1) (rsv : BitVec 5) (payload : List Byte) (ck : Half) : Instr :=
  if isScanEnableFrame wf rsv payload ck then .msgScanEnable
  else if isProductNamePayload payload then .msgProductName wf rsv payload.tail ck
  else match payload with
    | op :: f0 :: f1 :: l0 :: l1 :: a0 :: a1 :: extra =>
      if op = opcDistance then .msgDistanceSample wf rsv (le16 f0 f1) (le16 l0 l1) (le16 a0 a1) extra ck
      else .frameRx wf rsv payload ck
    | _ => .frameRx wf rsv payload ck

/-- Reads `n` bytes. -/
def readBytes : Nat → List Byte → Except DecodeError (List Byte × List Byte)
  | 0, bytes => .ok ([], bytes)
  | _ + 1, [] => .error .truncated
  | n + 1, b :: bytes =>
    match readBytes n bytes with
    | .ok (taken, rest) => .ok (b :: taken, rest)
    | .error e => .error e

/-- The fields of a frame after its start byte (R80, R81): the flags, `flags[15:6]` payload bytes, the checksum. -/
def decodeWire (bytes : List Byte) : Except DecodeError (Instr × List Byte) :=
  withOperand (readHalf bytes) fun flags r1 =>
    withOperand (readBytes (flagsPlen flags).toNat r1) fun payload r2 =>
      withOperand (readHalf r2) fun ck rest =>
        .ok (wireInstr (flagsWriteFlag flags) (flagsReserved flags) payload ck, rest)

/-- The operation at the head of a byte list and the bytes after it, or a rejection by name. Total. -/
def decode : List Byte → Except DecodeError (Instr × List Byte)
  | [] => .error .truncated
  | b :: rest => if b = startByte then decodeWire rest else decodeCommand (b.setWidth 4) rest

/-- A byte-sequence operand in the model's layout. -/
def encodeSeq : List Byte → List Byte
  | [] => [0]
  | b :: bytes => 1 :: b :: encodeSeq bytes

/-- A frame's bytes from its fields (R80). -/
def wireBytes (wf : BitVec 1) (rsv : BitVec 5) (payload : List Byte) (ck : Half) : List Byte :=
  startByte :: (bytesLe16 (packFlags payload.length rsv wf) ++ payload ++ bytesLe16 ck)

/-- The payload of a distance-sample message (R96): opcode 44, three little-endian fields, further data. -/
def distancePayload (first last angle : Half) (extra : List Byte) : List Byte :=
  opcDistance :: (bytesLe16 first ++ bytesLe16 last ++ bytesLe16 angle ++ extra)

/-- The bytes of an operation: the select byte and operands at the command port, or the frame's bytes on the wire. -/
def encode : Instr → List Byte
  | .crcInit => [0x00]
  | .crcStep b => [0x01, b]
  | .crcRead => [0x02]
  | .crcBlock s => 0x03 :: encodeSeq s
  | .encFrame op wf val => 0x04 :: op :: wf.setWidth 8 :: encodeSeq val
  | .encGet op => [0x05, op]
  | .encWr8 op v => [0x06, op, v]
  | .encWr16 op v => 0x07 :: op :: bytesLe16 v
  | .encWr32 op v => 0x08 :: op :: bytesLe32 v
  | .encWrf op p => 0x09 :: op :: bytesLe32 p
  | .decRx b => [0x0A, b]
  | .decRxn s => 0x0B :: encodeSeq s
  | .decReset => [0x0C]
  | .selD => [0x0D]
  | .selE => [0x0E]
  | .selF => [0x0F]
  | .frameRx wf rsv payload ck => wireBytes wf rsv payload ck
  | .msgProductName wf rsv text ck => wireBytes wf rsv (opcProductName :: text) ck
  | .msgDistanceSample wf rsv first last angle extra ck => wireBytes wf rsv (distancePayload first last angle extra) ck
  | .msgScanEnable => [0xAA, 0x81, 0x00, 0x60, 0x01, 0x4D, 0xDC]

/-- The bytes of a table word: byte `k` is bits `8k+7..8k` of `w`, `nbits` bits of it in whole bytes, then zeros up to the
longest frame (operand bytes the table gives no bits to are zero). -/
def tableBytes (nbits w : Nat) : List Byte :=
  (List.range ((nbits + 7) / 8)).map (fun k => BitVec.ofNat 8 (w >>> (8 * k))) ++ List.replicate maxFrameBytes 0

/-- The operation the decoder reads from a table word. -/
def decodeTableWord (nbits w : Nat) : Option Instr :=
  match decode (tableBytes nbits w) with
  | .ok (i, _) => some i
  | .error _ => none

end Sys2Proof
end

