-- ==== Sys2Proof/Machine/State.lean ====
section
/-! DEFINITION. The machine's state as plain data: ParserState and the checksum register (10_state.md), what the block's
ports show after an operation (decision D2), the transport, the results queue and the reports of 43_surroundings.md, and
the inputs still to be served (log entry 2). -/

namespace Sys2Proof.Machine

/-- The decoder's state tag `st` (R24). -/
inductive DecState where
  | waitStart
  | waitFlags
  | waitPayload
  | waitChecksum
  deriving DecidableEq, Repr

/-- The accumulation buffer `buf` (R21, R50): the cells written so far, by index, indices strictly rising. An unlisted
index has no value of its own; a read there answers a draw (R52, log entry 4). -/
abbrev Memory := List Host.Cell

/-- ParserState: the five fields the decoder owns (R20), and the fault that R233 has the model record. -/
structure ParserState where
  /-- `st` (R24). -/
  st : DecState
  /-- `cnt`, the byte count, a `u11` (R22). -/
  cnt : BitVec 11
  /-- `plen`, the decoded payload length, a `u10` (R23). -/
  plen : BitVec 10
  /-- `wflag`, the decoded write flag, one bit (R25). -/
  wflag : BitVec 1
  /-- `buf`, the accumulation buffer (R21). -/
  buf : Memory
  /-- `EV_OVERFLOW` has been raised and `DEC.RESET` has not been issued since: "no later operation clears it short of
  `DEC.RESET`" (R233, decision D20; log entry 5). -/
  overflowed : Bool := false
  deriving DecidableEq, Repr

/-- What a `DEC.RX` answers (42_decoder.md R162). `ENC_REFUSED` ends its operation in a refusal (R236) and so is no answer. -/
inductive Event where
  /-- `EV_NONE`. -/
  | none
  /-- `EV_FRAME`: a copy of `buf[0 .. 3 + plen)`, the payload length, the write flag. -/
  | frame (bytes : List Byte) (plen : BitVec 10) (wflag : BitVec 1)
  /-- `EV_CHECKSUM_ERR`: the transmitted and the computed checksum. -/
  | checksumErr (rxCk calcCk : Half)
  /-- `EV_FRAMING_ERR`: the decoded payload length. -/
  | framingErr (plenRaw : Half)
  /-- `EV_OVERFLOW`: nothing is stored, and the fault it is (R233) stands in ParserState until `DEC.RESET`. -/
  | overflow
  deriving DecidableEq, Repr

/-- The position of a distance sample (R204). -/
structure Position where
  x : HostFloat
  y : HostFloat
  z : HostFloat
  deriving DecidableEq, Repr

/-- The DistanceSample record (R204). -/
structure DistanceSample where
  firstDistanceMeters : HostFloat
  lastDistanceMeters : HostFloat
  angleDegrees : HostFloat
  position : Position
  deriving DecidableEq, Repr

/-- What the Payload Interpreter makes of a frame (R205). -/
inductive Message where
  | identity (text : Text)
  | distanceSample (sample : DistanceSample)
  | unknown
  deriving DecidableEq, Repr

/-- What the last operation answered (R16, decision D2): nothing, an event, a list of events, a `u16`, a frame's bytes, or
the samples a drain took (R208). -/
inductive Result where
  | none
  | event (e : Event)
  | events (es : List Event)
  /-- The events of a poll or of a received message, which that same operation has already handed over (R213, R268):
  nothing hands them over again. That it leaves them as its answer is the model's (DESIGN CHOICE, log entry 8). -/
  | handed (es : List Event)
  | checksum (v : Half)
  | bytes (bs : List Byte)
  | samples (ss : List DistanceSample)
  deriving DecidableEq, Repr

/-- What the software around the block logs or reports: a device identity (R201), a checksum failure at warning level
(R213, R230), a connection failure (R211). -/
inductive Report where
  | identity (text : Text)
  | checksumWarning (rxCk calcCk : Half)
  | connectionError
  deriving DecidableEq, Repr

/-- What the layer above may ask of the software around the block (R212). -/
inductive HostCall where
  /-- `connect(identifier, baudRate)`; `opened` is the transport's answer to `open` (R211). -/
  | connect (identifier : Text) (baudRate : Nat) (opened : Bool)
  | sendGetProduct
  | sendWriteInt8 (op : Byte) (v : Byte)
  | sendWriteInt16 (op : Byte) (v : Half)
  | sendWriteInt32 (op : Byte) (v : Word)
  | sendWriteFloat (op : Byte) (p : Word)
  | sendScanEnable
  | sendScanDisable
  | sendWritePosition (degrees : HostFloat)
  | poll
  | drainDistanceResults
  deriving DecidableEq, Repr

/-- What the outside world can do to the machine (R214): issue an operation, call the software around the block, or send
bytes over the link. -/
inductive Input where
  /-- One transaction at the command port, or a frame on the wire: bytes for the decoder of Decode.lean. -/
  | command (bytes : List Byte)
  | call (c : HostCall)
  | arrive (bytes : List Byte)
  deriving DecidableEq, Repr

/-- Why the machine stops. -/
inductive Fault where
  /-- A byte given to a decoder that has raised `EV_OVERFLOW` (event code 4) and has not been reset since: "the state is not
  final, nothing further is promised, and no later operation clears it short of `DEC.RESET`" (R233). Raised by `rxByte`.
  Safe: the run ends. No state that satisfies R26 under a legal configuration raises `EV_OVERFLOW` (R176). -/
  | bufferOverflow
  deriving DecidableEq, Repr

/-- Why an operation has no meaning. -/
inductive Refusal where
  /-- An instruction whose arm is not written yet; raised by `exec`'s refused arms. Safe. -/
  | notModelled (mnemonic : String)
  /-- Bytes that are no operation; raised by the step. Safe. -/
  | undecoded (why : DecodeError)
  /-- `sel` 0xD to 0xF "select nothing and are refused" (R94); raised by the meanings of those rows. Safe. -/
  | selectsNothing (sel : BitVec 4)
  /-- `ENC_REFUSED` (event code 5) with `len(val)`: a value payload above 1022 bytes (R132, R236); raised by `ENC.FRAME`.
  Safe. -/
  | encRefused (len : Nat)
  /-- An opcode-44 frame without the six bytes of its fields, which "a model that includes the interpreter refuses"
  (R202), or fewer bytes than an opcode; raised by the interpreter, at once in a poll or a received message row, and after
  a raw decoder operation by the drain of the queue (log entry 8). Safe. -/
  | interpreterShort (dataLen : Nat)
  deriving DecidableEq, Repr

/-- The whole machine. -/
structure State where
  /-- The parameters (R9), which nothing writes (R30). -/
  cfg : Config
  /-- ParserState (R20). -/
  parser : ParserState
  /-- The stand-alone checksum register (R27). -/
  crc : Half
  /-- What the last operation answered (R16). -/
  result : Result
  /-- Whether the transport is open (R211, R235). -/
  linkOpen : Bool
  /-- The transport's receive side: bytes arrived and not yet read, oldest first (R32). -/
  rx : List Byte
  /-- The frames handed to `writeAll`, oldest first, each whole (R131, R139). -/
  tx : List (List Byte)
  /-- The Pending Results Queue, oldest first (R206). -/
  pending : List DistanceSample
  /-- The interpreter's first refusal of a frame that a raw decoder operation delivered (R202): the decoder "never refuses a
  byte" (R160), and only what the queue holds has no meaning from there (log entry 8). -/
  interpRefused : Option Refusal
  /-- What has been logged or reported, oldest first (R201, R211, R213). -/
  reports : List Report
  /-- MODEL'S OWN: the inputs not yet served, next first (log entry 2). -/
  inputs : List Input
  deriving DecidableEq, Repr

/-- ParserState after reset (R33): `WAIT_START`, three zeros, a buffer in which nothing is written, and no overflow. -/
def ParserState.reset : ParserState :=
  { st := .waitStart, cnt := 0, plen := 0, wflag := 0, buf := [], overflowed := false }

/-- The machine right after reset (R33, R260): the block as the spec says; the link not yet open, nothing received, sent,
queued, reported or asked for (log entry 6). -/
def State.reset : State :=
  { cfg := {}, parser := .reset, crc := 0, result := .none, linkOpen := false, rx := [], tx := [], pending := [],
    interpRefused := none, reports := [], inputs := [] }

end Sys2Proof.Machine
end

