-- ==== Sys2Proof/Machine/Ops.lean ====
section
/-! DEFINITION. The shared operations over memory and registers: the buffer's read and guarded append (20_memory.md R52,
R53), what an event does to ParserState (60_exceptions.md R239), and the named updates of the machine's state. -/

namespace Sys2Proof.Machine

/-- The byte last written at an index, if any. -/
def Memory.cell? : Memory → Nat → Option Byte
  | [], _ => none
  | (a, b) :: rest, i => if a = i then some b else Memory.cell? rest i

/-- Writes one cell, keeping the indices rising. -/
def Memory.put : Memory → Nat → Byte → Memory
  | [], i, b => [(i, b)]
  | (a, c) :: rest, i, b =>
    if i < a then (i, b) :: (a, c) :: rest
    else if i = a then (i, b) :: rest
    else (a, c) :: Memory.put rest i b

/-- The canonical form: indices strictly rising. An unlisted index reads as no value, so no entry can repeat it. -/
abbrev Memory.wf (m : Memory) : Prop := m.Pairwise fun x y => x.1 < y.1

/-- `buf[i]` (R52): the byte last stored at `i`, for `i < cnt`; at any other index a draw. -/
def ParserState.byteAt (p : ParserState) (i : Nat) : Byte :=
  if i < p.cnt.toNat then (p.buf.cell? i).getD (Config.unspecifiedByte i) else Config.unspecifiedByte i

/-- `buf[0 .. n)` (R52). -/
def ParserState.bytesTo (p : ParserState) (n : Nat) : List Byte := (List.range n).map p.byteAt

/-- ParserState after the store half of `append`: `buf[cnt] <- b; cnt <- cnt + 1` (R53). -/
def ParserState.stored (p : ParserState) (b : Byte) : ParserState :=
  { p with buf := p.buf.put p.cnt.toNat b, cnt := p.cnt + 1 }

/-- The guarded `append(b)` (R53): the event `EV_OVERFLOW` when `cnt ≥ BUF_CAP` (R233), else the store. -/
def ParserState.append (c : Config) (p : ParserState) (b : Byte) : Except Event ParserState :=
  if c.bufCap ≤ p.cnt.toNat then .error .overflow else .ok (p.stored b)

/-- `parser_reset()` (42_decoder.md R167): the cells of `buf` stay, and so does a recorded overflow. -/
def ParserState.parserReset (p : ParserState) : ParserState :=
  { p with st := .waitStart, cnt := 0, plen := 0, wflag := 0 }

/-- What `DEC.RESET` leaves (R170, R260): `parser_reset()`, and no overflow any more, the one way to clear it (R233). -/
def ParserState.decReset (p : ParserState) : ParserState := { p.parserReset with overflowed := false }

/-- Entry of an event that ends a frame (R239): its content is already copied out, ParserState is reset, nothing is saved
and no mode changes. There is no return: the next `DEC.RX` runs the `WAIT_START` rule (R241). -/
def takeEvent (e : Event) (p : ParserState) : Event × ParserState := (e, p.parserReset)

/-- Entry of `EV_OVERFLOW` (R233): the event is answered and recorded until `DEC.RESET`, and nothing is stored or dropped
silently (R270). -/
def takeOverflow (e : Event) (p : ParserState) : Event × ParserState := (e, { p with overflowed := true })

/-- The code of an event that an operation answers (R230). -/
def Event.code : Event → BitVec 3
  | .none => 0
  | .frame _ _ _ => 1
  | .checksumErr _ _ => 2
  | .framingErr _ => 3
  | .overflow => 4

/-- The code of the event a fault comes after (R230): `EV_OVERFLOW`. -/
def Fault.code : Fault → BitVec 3
  | .bufferOverflow => 4

/-- The code of the event a refusal stands for, where it stands for one (R230): `ENC_REFUSED`. -/
def Refusal.code? : Refusal → Option (BitVec 3)
  | .encRefused _ => some 5
  | _ => none

/-- The number of a state tag, for the event and debug interface only (R24). -/
def DecState.number : DecState → BitVec 2
  | .waitStart => 0
  | .waitFlags => 1
  | .waitPayload => 2
  | .waitChecksum => 3

/-- An operation answers. -/
def State.answer (s : State) (r : Result) : State := { s with result := r }

/-- Writes the checksum register. -/
def State.setCrc (s : State) (v : Half) : State := { s with crc := v }

/-- Writes ParserState. -/
def State.setParser (s : State) (p : ParserState) : State := { s with parser := p }

/-- `writeAll(bytes)` of one whole frame (R131); while the transport is not open no result of an `ENC.*` is written (R235). -/
def State.writeAll (s : State) (bytes : List Byte) : State :=
  { s with tx := if s.linkOpen then s.tx ++ [bytes] else s.tx }

/-- Logs or reports. -/
def State.report (s : State) (r : Report) : State := { s with reports := s.reports ++ [r] }

/-- Appends a sample to the Pending Results Queue (R202, R206). -/
def State.enqueue (s : State) (d : DistanceSample) : State := { s with pending := s.pending ++ [d] }

/-- Records that the interpreter refused a frame (R202, log entry 8); the first refusal stays. -/
def State.refuseFrame (s : State) (r : Refusal) : State := { s with interpRefused := s.interpRefused.or (some r) }

/-- An encoder operation's result: the answer, and handed whole to the transport (R16, R131). -/
def State.emitFrame (s : State) (bytes : List Byte) : State := (s.writeAll bytes).answer (.bytes bytes)

end Sys2Proof.Machine
end

