-- ==== Sys2Proof/Machine/Checksum.lean ====
section
/-! DEFINITION. The checksum engine (40_checksum.md): the step function, its fold, and the four `CRC.*` operations. -/

namespace Sys2Proof.Machine

/-- `crc_step` (R111), the loop body line by line, modulo 2^16. -/
def crcStep (crc : Half) (b : Byte) : Half :=
  let code := crc >>> 8
  let code := code ^^^ b.setWidth 16
  let code := code ^^^ (code >>> 4)
  let crc := crc <<< 8
  let crc := crc ^^^ code
  let code := code <<< 5
  let crc := crc ^^^ code
  let code := code <<< 7
  crc ^^^ code

/-- `crc16` (R113): the fold of `crc_step` from 0. -/
def crc16 (bytes : List Byte) : Half := bytes.foldl crcStep 0

/-- `CRC.INIT` (R114). -/
def execCrcInit (s : State) : Host.Outcome State Fault Refusal := .next ((s.setCrc 0).answer .none)

/-- `CRC.STEP b` (R115). -/
def execCrcStep (b : Byte) (s : State) : Host.Outcome State Fault Refusal :=
  .next ((s.setCrc (crcStep s.crc b)).answer .none)

/-- `CRC.READ` (R117). -/
def execCrcRead (s : State) : Host.Outcome State Fault Refusal := .next (s.answer (.checksum s.crc))

/-- `CRC.BLOCK s` (R118): neither reads nor writes the register `crc`. -/
def execCrcBlock (bytes : List Byte) (s : State) : Host.Outcome State Fault Refusal :=
  .next (s.answer (.checksum (crc16 bytes)))

end Sys2Proof.Machine
end

