-- ==== Sys2Proof/Machine/Decoder.lean ====
section
/-! DEFINITION. The frame decoder (42_decoder.md): the four state rules, a chunk of bytes, and the three `DEC.*` operations. -/

namespace Sys2Proof.Machine

/-- State `WAIT_START` (R163). -/
def rxWaitStart (c : Config) (b : Byte) (p : ParserState) : Event × ParserState :=
  if b = startByte then
    match ({ p with cnt := 0 } : ParserState).append c b with
    | .error e => takeOverflow e { p with cnt := 0 }
    | .ok q => (.none, { q with st := .waitFlags })
  else (.none, p)

/-- What `WAIT_FLAGS` does once both flags bytes are stored (R164). The framing error is kept as the source has it and
cannot occur (R175); a zero length goes straight to the checksum (R174). -/
def flagsComplete (q : ParserState) : Event × ParserState :=
  let flags := le16 (q.byteAt 1) (q.byteAt 2)
  let n := flagsPlenRaw flags
  let q := { q with plen := flagsPlen flags, wflag := flagsWriteFlag flags }
  if maxPlen < n.toNat then takeEvent (.framingErr n) q
  else if n = 0 then (.none, { q with st := .waitChecksum })
  else (.none, { q with st := .waitPayload })

/-- State `WAIT_FLAGS` (R164). -/
def rxWaitFlags (c : Config) (b : Byte) (p : ParserState) : Event × ParserState :=
  match p.append c b with
  | .error e => takeOverflow e p
  | .ok q => if q.cnt.toNat = 3 then flagsComplete q else (.none, q)

/-- State `WAIT_PAYLOAD` (R165). -/
def rxWaitPayload (c : Config) (b : Byte) (p : ParserState) : Event × ParserState :=
  match p.append c b with
  | .error e => takeOverflow e p
  | .ok q => (.none, if q.cnt.toNat = 3 + q.plen.toNat then { q with st := .waitChecksum } else q)

/-- What `WAIT_CHECKSUM` answers once both checksum bytes are stored (R166): the transmitted value against `crc16` of all
bytes but the last two (40_checksum.md R120). -/
def frameVerdict (q : ParserState) : Event :=
  let n := q.cnt.toNat
  let rxCk := le16 (q.byteAt (n - 2)) (q.byteAt (n - 1))
  let calcCk := crc16 (q.bytesTo (n - 2))
  if rxCk = calcCk then .frame (q.bytesTo (3 + q.plen.toNat)) q.plen q.wflag else .checksumErr rxCk calcCk

/-- State `WAIT_CHECKSUM` (R166). -/
def rxWaitChecksum (c : Config) (b : Byte) (p : ParserState) : Event × ParserState :=
  match p.append c b with
  | .error e => takeOverflow e p
  | .ok q => if q.cnt.toNat = 5 + q.plen.toNat then takeEvent (frameVerdict q) q else (.none, q)

/-- The rule that the state tag chooses (R160). -/
def rxRule (c : Config) (b : Byte) (p : ParserState) : Event × ParserState :=
  match p.st with
  | .waitStart => rxWaitStart c b p
  | .waitFlags => rxWaitFlags c b p
  | .waitPayload => rxWaitPayload c b p
  | .waitChecksum => rxWaitChecksum c b p

/-- One received byte (R160). After `EV_OVERFLOW` nothing is promised until `DEC.RESET` (R233): a fault. -/
def rxByte (c : Config) (b : Byte) (p : ParserState) : Except Fault (Event × ParserState) :=
  if p.overflowed then .error .bufferOverflow else .ok (rxRule c b p)

/-- The bytes of a chunk one after the other, with the event of each (R168). -/
def rxAll (c : Config) : List Byte → ParserState → Except Fault (List Event × ParserState)
  | [], p => .ok ([], p)
  | b :: bytes, p =>
    match rxByte c b p with
    | .error f => .error f
    | .ok (e, q) =>
      match rxAll c bytes q with
      | .error f => .error f
      | .ok (es, r) => .ok (e :: es, r)

/-- Is the event other than `EV_NONE`? -/
def Event.isSome : Event → Bool
  | .none => false
  | .frame _ _ _ => true
  | .checksumErr _ _ => true
  | .framingErr _ => true
  | .overflow => true

/-- A chunk (R168): the events that are not `EV_NONE`, in byte order. -/
def rxChunk (c : Config) (bytes : List Byte) (p : ParserState) : Except Fault (List Event × ParserState) :=
  match rxAll c bytes p with
  | .error f => .error f
  | .ok (es, q) => .ok (es.filter Event.isSome, q)

/-- A chunk on the whole machine: ParserState and the answer change, nothing else. -/
def receiveChunk (bytes : List Byte) (s : State) : Host.Outcome State Fault Refusal :=
  match rxChunk s.cfg bytes s.parser with
  | .error f => .fault f
  | .ok (es, p) => .next ((s.setParser p).answer (.events es))

/-- `DEC.RX b` (R160). -/
def execDecRx (b : Byte) (s : State) : Host.Outcome State Fault Refusal :=
  match rxByte s.cfg b s.parser with
  | .error f => .fault f
  | .ok (e, p) => .next ((s.setParser p).answer (.event e))

/-- `DEC.RXN s` (R168). -/
def execDecRxn (bytes : List Byte) (s : State) : Host.Outcome State Fault Refusal := receiveChunk bytes s

/-- `DEC.RESET` (R170): `crc` stays (R260), a recorded overflow is cleared (R233). -/
def execDecReset (s : State) : Host.Outcome State Fault Refusal :=
  .next ((s.setParser s.parser.decReset).answer .none)

end Sys2Proof.Machine
end

