-- ==== Sys2Proof/Machine/Encoder.lean ====
section
/-! DEFINITION. The frame encoder (41_encoder.md): composing a frame, and the six `ENC.*` operations. None writes a state of
the block (10_state.md R28). -/

namespace Sys2Proof.Machine

/-- The frame with a given declared payload length (R130, R136): start byte, flags low byte first, opcode, value bytes, then
`crc16` of all of these low byte first (40_checksum.md R119). -/
def composeFrame (declared : Nat) (wf : BitVec 1) (op : Byte) (val : List Byte) : List Byte :=
  let h := startByte :: (bytesLe16 (assembleFlags declared wf) ++ op :: val)
  h ++ bytesLe16 (crc16 h)

/-- The frame of `encode(opcode, writeFlag, valuePayload)`: `payloadLength = 1 + len(valuePayload)` (R85, R130). -/
def encodeFrame (op : Byte) (wf : BitVec 1) (val : List Byte) : List Byte := composeFrame (1 + val.length) wf op val

/-- The Write-int16 frame: the declared length is the parameter, the bytes sent are opcode and two value bytes (R136). -/
def encodeInt16 (c : Config) (op : Byte) (v : Half) : List Byte :=
  composeFrame c.int16DeclaredPlen.toNat 1 op (bytesLe16 v)

/-- `ENC.FRAME op, wf, val` (R130); a value payload above 1022 bytes is refused (R132, R236). -/
def execEncFrame (op : Byte) (wf : BitVec 1) (val : List Byte) (s : State) : Host.Outcome State Fault Refusal :=
  if 1022 < val.length then .refused (.encRefused val.length) else .next (s.emitFrame (encodeFrame op wf val))

/-- `ENC.GET op` (R134). -/
def execEncGet (op : Byte) (s : State) : Host.Outcome State Fault Refusal := .next (s.emitFrame (encodeFrame op 0 []))

/-- `ENC.WR8 op, v` (R135). -/
def execEncWr8 (op : Byte) (v : Byte) (s : State) : Host.Outcome State Fault Refusal :=
  .next (s.emitFrame (encodeFrame op 1 [v]))

/-- `ENC.WR16 op, v` (R136). -/
def execEncWr16 (op : Byte) (v : Half) (s : State) : Host.Outcome State Fault Refusal :=
  .next (s.emitFrame (encodeInt16 s.cfg op v))

/-- `ENC.WR32 op, v` (R137). -/
def execEncWr32 (op : Byte) (v : Word) (s : State) : Host.Outcome State Fault Refusal :=
  .next (s.emitFrame (encodeFrame op 1 (bytesLe32 v)))

/-- `ENC.WRF op, p` (R138): the pattern passes through unread. -/
def execEncWrf (op : Byte) (p : Word) (s : State) : Host.Outcome State Fault Refusal :=
  .next (s.emitFrame (encodeFrame op 1 (bytesLe32 p)))

end Sys2Proof.Machine
end

