-- ==== Sys2Proof/Machine/Interpreter.lean ====
section
/-! DEFINITION. The Payload Interpreter and what the software around the block does with an event (43_surroundings.md R200
to R208, R213). The floats and the text of unprintable names are free values (93_implementation_defined.md U10, U11). -/

namespace Sys2Proof.Machine

/-- The text of the 16 name bytes (R201): the bytes themselves where all are printable, which is all the source's example
needs (U11); else a free value. -/
def decodeText (bytes : List Byte) : Text :=
  if bytes.all (fun b => decide (0x20 ≤ b.toNat) && decide (b.toNat ≤ 0x7E)) then bytes.map BitVec.toNat
  else Config.textOf bytes

/-- The host's float of a number of hundredths: `/100.0` (R202). -/
def centi (n : Int) : HostFloat := Config.floatDiv100 (Config.floatOfInt n)

/-- The DistanceSample of the three fields (R202, R204): `angleCentidegrees` is signed, `position` uses the first distance
only, and `y` is always 0. -/
def distanceSample (first last angle : Half) : DistanceSample :=
  let firstMeters := centi first.toNat
  let degrees := centi angle.toInt
  let rad := Config.floatRadians degrees
  { firstDistanceMeters := firstMeters
    lastDistanceMeters := centi last.toNat
    angleDegrees := degrees
    position :=
      { x := Config.floatMul (Config.floatSin rad) firstMeters
        y := Config.floatOfInt 0
        z := Config.floatMul (Config.floatCos rad) firstMeters } }

/-- The data of an opcode-44 frame (R202): with the three fields not all present, a refusal. -/
def interpretDistance (data : List Byte) : Except Refusal Message :=
  match data with
  | f0 :: f1 :: l0 :: l1 :: a0 :: a1 :: _ => .ok (.distanceSample (distanceSample (le16 f0 f1) (le16 l0 l1) (le16 a0 a1)))
  | _ => .error (.interpreterShort data.length)

/-- `interpret(frameBytes, payloadLength)` (R200 to R203). -/
def interpret (frame : List Byte) (plen : Nat) : Except Refusal Message :=
  if plen = 0 then .ok .unknown
  else
    match frame.drop 3 with
    | [] => .error (.interpreterShort 0)
    | op :: data =>
      if op = opcProductName ∧ plen - 1 = 16 then .ok (.identity (decodeText (data.take 16)))
      else if op = opcDistance then interpretDistance data
      else .ok .unknown

/-- What becomes of a message: an identity is logged, a sample is queued, an unknown one is ignored (R201 to R203). -/
def acceptMessage (m : Message) (s : State) : State :=
  match m with
  | .identity text => s.report (.identity text)
  | .distanceSample d => s.enqueue d
  | .unknown => s

/-- One event of the decoder, handed over synchronously (R200, R213, R268): a frame goes to the interpreter, a checksum
error is reported as a warning, a framing error is dropped silently (R230), and `EV_OVERFLOW`, a fault of the decoder (R233),
is nothing to the interpreter. That it refused a frame is recorded (R202), and later frames are interpreted like any others. -/
def handOver (e : Event) (s : State) : State :=
  match e with
  | .none => s
  | .frame bytes plen _ =>
    match interpret bytes plen.toNat with
    | .ok m => acceptMessage m s
    | .error r => s.refuseFrame r
  | .checksumErr rxCk calcCk => s.report (.checksumWarning rxCk calcCk)
  | .framingErr _ => s
  | .overflow => s

/-- Events in the order the decoder answered them (R200, R238). -/
def handOverAll : List Event → State → State
  | [], s => s
  | e :: es, s => handOverAll es (handOver e s)

/-- The interpreter's refusal of an event's frame, if it refuses it (R202). -/
def Event.refusal? : Event → Option Refusal
  | .none => Option.none
  | .frame bytes plen _ =>
    match interpret bytes plen.toNat with
    | .ok _ => Option.none
    | .error r => some r
  | .checksumErr _ _ => Option.none
  | .framingErr _ => Option.none
  | .overflow => Option.none

/-- The events of an answer that nothing has handed over yet: those of a raw decoder operation or of a received frame. A
poll and a received message row hand their own over (`handed`, log entry 8). -/
def Result.eventList : Result → List Event
  | .event e => [e]
  | .events es => es
  | .handed _ => []
  | .none => []
  | .checksum _ => []
  | .bytes _ => []
  | .samples _ => []

/-- The hand-over that ends the step of an operation (R200, R268, decision D19): each event the operation answered, once. -/
def interpretResult (s : State) : State := handOverAll s.result.eventList s

/-- `DEC.RXN` on a chunk and then each of its events to the software around the block (R213). The events stay readable as
the answer, marked as handed over (DESIGN CHOICE, log entry 8). A frame of the chunk that the interpreter refuses makes it a
refusal (R202). -/
def receiveAndDeliver (bytes : List Byte) (s : State) : Host.Outcome State Fault Refusal :=
  match rxChunk s.cfg bytes s.parser with
  | .error f => .fault f
  | .ok (es, p) =>
    match es.findSome? Event.refusal? with
    | some r => .refused r
    | none => .next (handOverAll es ((s.setParser p).answer (.handed es)))

end Sys2Proof.Machine
end

