-- ==== Sys2Proof/Machine/Messages.lean ====
section
/-! DEFINITION. The wire formats of the opcode table (30_encoding.md R80, R96). A received frame is given to the decoder byte
by byte; a received message also goes to the interpreter, which gives it its meaning; the scan-enable message is sent. The
spec gives these rows as formats; that they act so when issued as operations is the model's (DESIGN CHOICE, log entry 11). -/

namespace Sys2Proof.Machine

/-- A frame as received by `DEC.RX` (R80, R177): its bytes to the decoder, the events as the answer. -/
def execFrameRx (wf : BitVec 1) (rsv : BitVec 5) (payload : List Byte) (ck : Half) (s : State) :
    Host.Outcome State Fault Refusal :=
  receiveChunk (wireBytes wf rsv payload ck) s

/-- The product-name message from the device (R201). -/
def execMsgProductName (wf : BitVec 1) (rsv : BitVec 5) (text : List Byte) (ck : Half) (s : State) :
    Host.Outcome State Fault Refusal :=
  receiveAndDeliver (wireBytes wf rsv (opcProductName :: text) ck) s

/-- The distance-sample message from the device (R202). -/
def execMsgDistanceSample (wf : BitVec 1) (rsv : BitVec 5) (first last angle : Half) (extra : List Byte) (ck : Half)
    (s : State) : Host.Outcome State Fault Refusal :=
  receiveAndDeliver (wireBytes wf rsv (distancePayload first last angle extra) ck) s

/-- The scan-enable message to the device (R96): a Write-int8 of 1 to opcode 96. -/
def execMsgScanEnable (s : State) : Host.Outcome State Fault Refusal :=
  .next (s.emitFrame (encodeFrame opcScanEnable 1 [1]))

end Sys2Proof.Machine
end

