-- ==== Sys2Proof/Machine/Reserved.lean ====
section
/-! DEFINITION. The operation-select codes that select nothing: "`sel` values `0xD` to `0xF` select nothing and are refused"
(30_encoding.md R94; 93_implementation_defined.md U12). -/

namespace Sys2Proof.Machine

/-- A code that selects nothing. -/
def refuseSelect (sel : BitVec 4) : Host.Outcome State Fault Refusal := .refused (.selectsNothing sel)

/-- `sel = 0xD`. -/
def execSelD (_s : State) : Host.Outcome State Fault Refusal := refuseSelect 0xD

/-- `sel = 0xE`. -/
def execSelE (_s : State) : Host.Outcome State Fault Refusal := refuseSelect 0xE

/-- `sel = 0xF`. -/
def execSelF (_s : State) : Host.Outcome State Fault Refusal := refuseSelect 0xF

end Sys2Proof.Machine
end

