-- ==== Sys2Proof/Machine/Dispatch.lean ====
section
/-! DEFINITION. One arm per operation. -/

namespace Sys2Proof.Machine

def exec (i : Instr) (s : State) : Host.Outcome State Fault Refusal :=
  match i with
  | .crcInit => Sys2Proof.Machine.execCrcInit s
  | .crcStep b => Sys2Proof.Machine.execCrcStep b s
  | .crcRead => Sys2Proof.Machine.execCrcRead s
  | .crcBlock bytes => Sys2Proof.Machine.execCrcBlock bytes s
  | .encFrame op wf val => Sys2Proof.Machine.execEncFrame op wf val s
  | .encGet op => Sys2Proof.Machine.execEncGet op s
  | .encWr8 op v => Sys2Proof.Machine.execEncWr8 op v s
  | .encWr16 op v => Sys2Proof.Machine.execEncWr16 op v s
  | .encWr32 op v => Sys2Proof.Machine.execEncWr32 op v s
  | .encWrf op p => Sys2Proof.Machine.execEncWrf op p s
  | .decRx b => Sys2Proof.Machine.execDecRx b s
  | .decRxn bytes => Sys2Proof.Machine.execDecRxn bytes s
  | .decReset => Sys2Proof.Machine.execDecReset s
  | .selD => Sys2Proof.Machine.execSelD s
  | .selE => Sys2Proof.Machine.execSelE s
  | .selF => Sys2Proof.Machine.execSelF s
  | .frameRx wf rsv payload ck => Sys2Proof.Machine.execFrameRx wf rsv payload ck s
  | .msgProductName wf rsv text ck => Sys2Proof.Machine.execMsgProductName wf rsv text ck s
  | .msgDistanceSample wf rsv first last angle extra ck => Sys2Proof.Machine.execMsgDistanceSample wf rsv first last angle extra ck s
  | .msgScanEnable => Sys2Proof.Machine.execMsgScanEnable s

end Sys2Proof.Machine
end

