-- ==== Sys2Proof/Machine/Surroundings.lean ====
section
/-! DEFINITION. The software around the block as the layer above calls it (43_surroundings.md R208 to R213, 30_encoding.md
R98): the Command Catalog, the connection, the poll, the drain, and bytes arriving on the link. -/

namespace Sys2Proof.Machine

/-- The frame of a write command (R135 to R138). -/
def writeFrame (c : Config) (w : WriteCommand) : List Byte :=
  match w.shape with
  | .int8 => encodeFrame w.op 1 [w.value.setWidth 8]
  | .int16 => encodeInt16 c w.op (w.value.setWidth 16)
  | .int32 => encodeFrame w.op 1 (bytesLe32 w.value)
  | .float => encodeFrame w.op 1 (bytesLe32 w.value)

/-- The order of the session-start commands (R209). -/
def catalogOrder : List CatalogStep :=
  [.disableStreaming, .disableScanning, .requestProduct, .setLowAngle, .setHighAngle, .setUpdateRate, .setCycleSpeed,
    .setDistanceInfo, .enableStreaming, .enableScanning]

/-- The frame of one session-start command (R210): scan disable by decision D14, the product request by decision D13, scan
enable by the source; the commands whose bytes are not given are free values. -/
def catalogFrame (c : Config) (step : CatalogStep) : List Byte :=
  match step with
  | .disableScanning => encodeFrame opcScanEnable 1 [0]
  | .requestProduct => encodeFrame opcProductName 0 []
  | .enableScanning => encodeFrame opcScanEnable 1 [1]
  | .disableStreaming => writeFrame c (Config.catalogWrite .disableStreaming)
  | .setLowAngle => writeFrame c (Config.catalogWrite .setLowAngle)
  | .setHighAngle => writeFrame c (Config.catalogWrite .setHighAngle)
  | .setUpdateRate => writeFrame c (Config.catalogWrite .setUpdateRate)
  | .setCycleSpeed => writeFrame c (Config.catalogWrite .setCycleSpeed)
  | .setDistanceInfo => writeFrame c (Config.catalogWrite .setDistanceInfo)
  | .enableStreaming => writeFrame c (Config.catalogWrite .enableStreaming)

/-- The session-start sequence (R209): each command one encoder operation, in this order. -/
def sessionStart (s : State) : State := catalogOrder.foldl (fun t step => t.emitFrame (catalogFrame t.cfg step)) s

/-- `connect` (R98, R211): after a successful `open`, `DEC.RESET` and the session-start sequence; after a failed one, one
ConnectionError report, and the device is not connected. Bytes received before it stay in either case (DESIGN CHOICE, log
entry 7). That an open link stays open until a `connect` fails is the model's as well (DESIGN CHOICE, log entry 7): R211 leaves
what becomes of it later to the transport. The spec gives `connect` no answer (R98, R212, R235): that a failed one leaves none,
and a successful one the frame of its last command, is the model's too (DESIGN CHOICE, log entry 15). -/
def connect (opened : Bool) (s : State) : State :=
  if opened then sessionStart (({ s with linkOpen := true } : State).setParser s.parser.decReset)
  else (({ s with linkOpen := false } : State).report .connectionError).answer .none

/-- `poll()` (R98, R213): all available bytes to the decoder, each event handed over in the same call, which leaves them as
its answer (DESIGN CHOICE, log entry 8). While the transport is not open no `DEC.RX` is issued (R235); that a poll then does
nothing and answers nothing is the model's (DESIGN CHOICE, log entry 8). -/
def poll (s : State) : Host.Outcome State Fault Refusal :=
  if s.linkOpen then receiveAndDeliver s.rx { s with rx := [] } else .next (s.answer .none)

/-- `drainDistanceResults()` (R208): the whole queue is taken and an empty one replaces it, in one step. Where the
interpreter has refused a frame of a raw operation, whether the queue holds a sample for it is not given, and taking it is
refused (R202, log entry 8). -/
def drainDistanceResults (s : State) : Host.Outcome State Fault Refusal :=
  match s.interpRefused with
  | some r => .refused r
  | none => .next (({ s with pending := [] } : State).answer (.samples s.pending))

/-- One call of the layer above (R212; expansions of R98). -/
def serveCall (c : HostCall) (s : State) : Host.Outcome State Fault Refusal :=
  match c with
  | .connect _ _ opened => .next (connect opened s)
  | .sendGetProduct => .next (s.emitFrame (encodeFrame opcProductName 0 []))
  | .sendWriteInt8 op v => .next (s.emitFrame (encodeFrame op 1 [v]))
  | .sendWriteInt16 op v => .next (s.emitFrame (encodeInt16 s.cfg op v))
  | .sendWriteInt32 op v => .next (s.emitFrame (encodeFrame op 1 (bytesLe32 v)))
  | .sendWriteFloat op p => .next (s.emitFrame (encodeFrame op 1 (bytesLe32 p)))
  | .sendScanEnable => .next (s.emitFrame (encodeFrame opcScanEnable 1 [1]))
  | .sendScanDisable => .next (s.emitFrame (encodeFrame opcScanEnable 1 [0]))
  | .sendWritePosition degrees => .next (s.emitFrame (writeFrame s.cfg (Config.positionWrite degrees)))
  | .poll => poll s
  | .drainDistanceResults => drainDistanceResults s

/-- Bytes from the device (R211, R214): any bytes, kept in order until a poll reads them. A link that is not open carries
none. -/
def arrive (bytes : List Byte) (s : State) : State := if s.linkOpen then { s with rx := s.rx ++ bytes } else s

end Sys2Proof.Machine
end

