-- ==== Sys2Proof/Machine/Step.lean ====
section
/-! DEFINITION. One step of the machine serves the next input: an operation is decoded and run by `exec`, and the
events it answers are handed over in the same step (43_surroundings.md R200, 70_reset_and_hazards.md R268); a call of the
layer above and bytes from the device act as 43_surroundings.md says. With no input nothing happens: no step acts on its own
(60_exceptions.md R237, 70_reset_and_hazards.md R266). -/

namespace Sys2Proof.Machine

/-- What follows an operation in its own step: the events it answered reach the interpreter (R200, R268, log entry 8). An
operation that stops hands nothing over. -/
def thenHandOver (o : Host.Outcome State Fault Refusal) : Host.Outcome State Fault Refusal :=
  match o with
  | .next t => .next (interpretResult t)
  | .fault f => .fault f
  | .refused r => .refused r

/-- Serves one input. -/
def serve (i : Input) (s : State) : Host.Outcome State Fault Refusal :=
  match i with
  | .command bytes =>
    match decode bytes with
    | .ok (op, _) => thenHandOver (exec op s)
    | .error e => .refused (.undecoded e)
  | .call c => serveCall c s
  | .arrive bytes => .next (arrive bytes s)

/-- One step. -/
def step (s : State) : Host.Outcome State Fault Refusal :=
  match s.inputs with
  | [] => .next s
  | i :: rest => serve i { s with inputs := rest }

/-- The state whose next input is the operation of a table word (log entry 2). -/
def State.withFetchWord (s : State) (nbits w : Nat) : State :=
  { s with inputs := .command (tableBytes nbits w) :: s.inputs }

end Sys2Proof.Machine
end

