-- ==== Sys2Proof/Safety.lean ====
section
/-! DEFINITION. What a safe state and a run are: the invariants of ParserState (10_state.md R26) and the observable outcome
of a run of operations (70_reset_and_hazards.md R273). -/

namespace Sys2Proof.Machine

/-- The three equalities of R26 I3: the start byte and the decoded header are what `buf` holds. -/
abbrev ParserState.headerDecoded (p : ParserState) : Prop :=
  p.byteAt 0 = startByte ∧ p.plen = flagsPlen (le16 (p.byteAt 1) (p.byteAt 2))
    ∧ p.wflag = flagsWriteFlag (le16 (p.byteAt 1) (p.byteAt 2))

/-- The invariants I1 to I4 of R26, one conjunct each. -/
abbrev ParserState.tagInv (p : ParserState) : Prop :=
  (p.st = .waitStart → p.cnt = 0) ∧
  (p.st = .waitFlags → (p.cnt = 1 ∨ p.cnt = 2) ∧ p.byteAt 0 = startByte) ∧
  (p.st = .waitPayload →
    1 ≤ p.plen.toNat ∧ 3 ≤ p.cnt.toNat ∧ p.cnt.toNat < 3 + p.plen.toNat ∧ p.headerDecoded) ∧
  (p.st = .waitChecksum → 3 + p.plen.toNat ≤ p.cnt.toNat ∧ p.cnt.toNat < 5 + p.plen.toNat ∧ p.headerDecoded)

/-- The invariant of ParserState: R26, no overflow recorded (R176), the buffer in canonical form within its capacity (R21,
R50), and every index below `cnt` written (R21). -/
structure ParserState.Inv (c : Config) (p : ParserState) : Prop where
  tag : p.tagInv
  clear : p.overflowed = false
  wf : p.buf.wf
  inRange : ∀ cell ∈ p.buf, cell.1 < c.bufCap
  written : ∀ i, i < p.cnt.toNat → (p.buf.cell? i).isSome = true

/-- A state of the machine that the block's rules allow: a legal configuration and a ParserState that satisfies R26. -/
structure State.Inv (s : State) : Prop where
  legal : s.cfg.legal
  parser : s.parser.Inv s.cfg

/-- Two ParserStates that no rule of the block tells apart: equal registers and equal bytes below `cnt` (R21). -/
abbrev ParserState.agree (p q : ParserState) : Prop :=
  p.st = q.st ∧ p.cnt = q.cnt ∧ p.plen = q.plen ∧ p.wflag = q.wflag ∧ p.overflowed = q.overflowed
    ∧ ∀ i, i < p.cnt.toNat → p.byteAt i = q.byteAt i

/-- A run of operations (R273): the answers, in order, and the final state; none if an operation faults or is refused. -/
def runOps : List Instr → State → Option (List Result × State)
  | [], s => some ([], s)
  | i :: is, s =>
    match exec i s with
    | .next t => (runOps is t).map fun r => (t.result :: r.1, r.2)
    | .fault _ => none
    | .refused _ => none

/-- The operations of the decoder (R94). -/
def isDecoderOp : Instr → Bool
  | .decRx _ => true
  | .decRxn _ => true
  | .decReset => true
  | .crcInit => false
  | .crcStep _ => false
  | .crcRead => false
  | .crcBlock _ => false
  | .encFrame _ _ _ => false
  | .encGet _ => false
  | .encWr8 _ _ => false
  | .encWr16 _ _ => false
  | .encWr32 _ _ => false
  | .encWrf _ _ => false
  | .selD => false
  | .selE => false
  | .selF => false
  | .frameRx _ _ _ _ => false
  | .msgProductName _ _ _ _ => false
  | .msgDistanceSample _ _ _ _ _ _ _ => false
  | .msgScanEnable => false

/-- The operations of the checksum engine and the encoder (R94). -/
def isEncoderOrChecksumOp : Instr → Bool
  | .crcInit => true
  | .crcStep _ => true
  | .crcRead => true
  | .crcBlock _ => true
  | .encFrame _ _ _ => true
  | .encGet _ => true
  | .encWr8 _ _ => true
  | .encWr16 _ _ => true
  | .encWr32 _ _ => true
  | .encWrf _ _ => true
  | .decRx _ => false
  | .decRxn _ => false
  | .decReset => false
  | .selD => false
  | .selE => false
  | .selF => false
  | .frameRx _ _ _ _ => false
  | .msgProductName _ _ _ _ => false
  | .msgDistanceSample _ _ _ _ _ _ _ => false
  | .msgScanEnable => false

end Sys2Proof.Machine
end

