-- ==== Sys2Proof/Laws/State.lean ====
section
/-! SUPPORT. One lemma per field per update of the machine's state and of ParserState, each true by `rfl`. -/

namespace Sys2Proof.Machine

@[simp] theorem State.answer_cfg (s : State) (r : Result) : (s.answer r).cfg = s.cfg := rfl
@[simp] theorem State.answer_parser (s : State) (r : Result) : (s.answer r).parser = s.parser := rfl
@[simp] theorem State.answer_crc (s : State) (r : Result) : (s.answer r).crc = s.crc := rfl
@[simp] theorem State.answer_result (s : State) (r : Result) : (s.answer r).result = r := rfl
@[simp] theorem State.answer_linkOpen (s : State) (r : Result) : (s.answer r).linkOpen = s.linkOpen := rfl
@[simp] theorem State.answer_rx (s : State) (r : Result) : (s.answer r).rx = s.rx := rfl
@[simp] theorem State.answer_tx (s : State) (r : Result) : (s.answer r).tx = s.tx := rfl
@[simp] theorem State.answer_pending (s : State) (r : Result) : (s.answer r).pending = s.pending := rfl
@[simp] theorem State.answer_interpRefused (s : State) (r : Result) : (s.answer r).interpRefused = s.interpRefused := rfl
@[simp] theorem State.answer_reports (s : State) (r : Result) : (s.answer r).reports = s.reports := rfl
@[simp] theorem State.answer_inputs (s : State) (r : Result) : (s.answer r).inputs = s.inputs := rfl

@[simp] theorem State.setCrc_cfg (s : State) (v : Half) : (s.setCrc v).cfg = s.cfg := rfl
@[simp] theorem State.setCrc_parser (s : State) (v : Half) : (s.setCrc v).parser = s.parser := rfl
@[simp] theorem State.setCrc_crc (s : State) (v : Half) : (s.setCrc v).crc = v := rfl
@[simp] theorem State.setCrc_result (s : State) (v : Half) : (s.setCrc v).result = s.result := rfl
@[simp] theorem State.setCrc_linkOpen (s : State) (v : Half) : (s.setCrc v).linkOpen = s.linkOpen := rfl
@[simp] theorem State.setCrc_rx (s : State) (v : Half) : (s.setCrc v).rx = s.rx := rfl
@[simp] theorem State.setCrc_tx (s : State) (v : Half) : (s.setCrc v).tx = s.tx := rfl
@[simp] theorem State.setCrc_pending (s : State) (v : Half) : (s.setCrc v).pending = s.pending := rfl
@[simp] theorem State.setCrc_interpRefused (s : State) (v : Half) : (s.setCrc v).interpRefused = s.interpRefused := rfl
@[simp] theorem State.setCrc_reports (s : State) (v : Half) : (s.setCrc v).reports = s.reports := rfl
@[simp] theorem State.setCrc_inputs (s : State) (v : Half) : (s.setCrc v).inputs = s.inputs := rfl

@[simp] theorem State.setParser_cfg (s : State) (p : ParserState) : (s.setParser p).cfg = s.cfg := rfl
@[simp] theorem State.setParser_parser (s : State) (p : ParserState) : (s.setParser p).parser = p := rfl
@[simp] theorem State.setParser_crc (s : State) (p : ParserState) : (s.setParser p).crc = s.crc := rfl
@[simp] theorem State.setParser_result (s : State) (p : ParserState) : (s.setParser p).result = s.result := rfl
@[simp] theorem State.setParser_linkOpen (s : State) (p : ParserState) : (s.setParser p).linkOpen = s.linkOpen := rfl
@[simp] theorem State.setParser_rx (s : State) (p : ParserState) : (s.setParser p).rx = s.rx := rfl
@[simp] theorem State.setParser_tx (s : State) (p : ParserState) : (s.setParser p).tx = s.tx := rfl
@[simp] theorem State.setParser_pending (s : State) (p : ParserState) : (s.setParser p).pending = s.pending := rfl
@[simp] theorem State.setParser_interpRefused (s : State) (p : ParserState) : (s.setParser p).interpRefused = s.interpRefused := rfl
@[simp] theorem State.setParser_reports (s : State) (p : ParserState) : (s.setParser p).reports = s.reports := rfl
@[simp] theorem State.setParser_inputs (s : State) (p : ParserState) : (s.setParser p).inputs = s.inputs := rfl

@[simp] theorem State.writeAll_cfg (s : State) (bytes : List Byte) : (s.writeAll bytes).cfg = s.cfg := rfl
@[simp] theorem State.writeAll_parser (s : State) (bytes : List Byte) : (s.writeAll bytes).parser = s.parser := rfl
@[simp] theorem State.writeAll_crc (s : State) (bytes : List Byte) : (s.writeAll bytes).crc = s.crc := rfl
@[simp] theorem State.writeAll_result (s : State) (bytes : List Byte) : (s.writeAll bytes).result = s.result := rfl
@[simp] theorem State.writeAll_linkOpen (s : State) (bytes : List Byte) : (s.writeAll bytes).linkOpen = s.linkOpen := rfl
@[simp] theorem State.writeAll_rx (s : State) (bytes : List Byte) : (s.writeAll bytes).rx = s.rx := rfl
@[simp] theorem State.writeAll_tx (s : State) (bytes : List Byte) : (s.writeAll bytes).tx = if s.linkOpen then s.tx ++ [bytes] else s.tx := rfl
@[simp] theorem State.writeAll_pending (s : State) (bytes : List Byte) : (s.writeAll bytes).pending = s.pending := rfl
@[simp] theorem State.writeAll_interpRefused (s : State) (bytes : List Byte) : (s.writeAll bytes).interpRefused = s.interpRefused := rfl
@[simp] theorem State.writeAll_reports (s : State) (bytes : List Byte) : (s.writeAll bytes).reports = s.reports := rfl
@[simp] theorem State.writeAll_inputs (s : State) (bytes : List Byte) : (s.writeAll bytes).inputs = s.inputs := rfl

@[simp] theorem State.report_cfg (s : State) (r : Report) : (s.report r).cfg = s.cfg := rfl
@[simp] theorem State.report_parser (s : State) (r : Report) : (s.report r).parser = s.parser := rfl
@[simp] theorem State.report_crc (s : State) (r : Report) : (s.report r).crc = s.crc := rfl
@[simp] theorem State.report_result (s : State) (r : Report) : (s.report r).result = s.result := rfl
@[simp] theorem State.report_linkOpen (s : State) (r : Report) : (s.report r).linkOpen = s.linkOpen := rfl
@[simp] theorem State.report_rx (s : State) (r : Report) : (s.report r).rx = s.rx := rfl
@[simp] theorem State.report_tx (s : State) (r : Report) : (s.report r).tx = s.tx := rfl
@[simp] theorem State.report_pending (s : State) (r : Report) : (s.report r).pending = s.pending := rfl
@[simp] theorem State.report_interpRefused (s : State) (r : Report) : (s.report r).interpRefused = s.interpRefused := rfl
@[simp] theorem State.report_reports (s : State) (r : Report) : (s.report r).reports = s.reports ++ [r] := rfl
@[simp] theorem State.report_inputs (s : State) (r : Report) : (s.report r).inputs = s.inputs := rfl

@[simp] theorem State.enqueue_cfg (s : State) (d : DistanceSample) : (s.enqueue d).cfg = s.cfg := rfl
@[simp] theorem State.enqueue_parser (s : State) (d : DistanceSample) : (s.enqueue d).parser = s.parser := rfl
@[simp] theorem State.enqueue_crc (s : State) (d : DistanceSample) : (s.enqueue d).crc = s.crc := rfl
@[simp] theorem State.enqueue_result (s : State) (d : DistanceSample) : (s.enqueue d).result = s.result := rfl
@[simp] theorem State.enqueue_linkOpen (s : State) (d : DistanceSample) : (s.enqueue d).linkOpen = s.linkOpen := rfl
@[simp] theorem State.enqueue_rx (s : State) (d : DistanceSample) : (s.enqueue d).rx = s.rx := rfl
@[simp] theorem State.enqueue_tx (s : State) (d : DistanceSample) : (s.enqueue d).tx = s.tx := rfl
@[simp] theorem State.enqueue_pending (s : State) (d : DistanceSample) : (s.enqueue d).pending = s.pending ++ [d] := rfl
@[simp] theorem State.enqueue_interpRefused (s : State) (d : DistanceSample) : (s.enqueue d).interpRefused = s.interpRefused := rfl
@[simp] theorem State.enqueue_reports (s : State) (d : DistanceSample) : (s.enqueue d).reports = s.reports := rfl
@[simp] theorem State.enqueue_inputs (s : State) (d : DistanceSample) : (s.enqueue d).inputs = s.inputs := rfl

@[simp] theorem State.refuseFrame_cfg (s : State) (r : Refusal) : (s.refuseFrame r).cfg = s.cfg := rfl
@[simp] theorem State.refuseFrame_parser (s : State) (r : Refusal) : (s.refuseFrame r).parser = s.parser := rfl
@[simp] theorem State.refuseFrame_crc (s : State) (r : Refusal) : (s.refuseFrame r).crc = s.crc := rfl
@[simp] theorem State.refuseFrame_result (s : State) (r : Refusal) : (s.refuseFrame r).result = s.result := rfl
@[simp] theorem State.refuseFrame_linkOpen (s : State) (r : Refusal) : (s.refuseFrame r).linkOpen = s.linkOpen := rfl
@[simp] theorem State.refuseFrame_rx (s : State) (r : Refusal) : (s.refuseFrame r).rx = s.rx := rfl
@[simp] theorem State.refuseFrame_tx (s : State) (r : Refusal) : (s.refuseFrame r).tx = s.tx := rfl
@[simp] theorem State.refuseFrame_pending (s : State) (r : Refusal) : (s.refuseFrame r).pending = s.pending := rfl
@[simp] theorem State.refuseFrame_interpRefused (s : State) (r : Refusal) : (s.refuseFrame r).interpRefused = s.interpRefused.or (some r) := rfl
@[simp] theorem State.refuseFrame_reports (s : State) (r : Refusal) : (s.refuseFrame r).reports = s.reports := rfl
@[simp] theorem State.refuseFrame_inputs (s : State) (r : Refusal) : (s.refuseFrame r).inputs = s.inputs := rfl

@[simp] theorem State.emitFrame_cfg (s : State) (bytes : List Byte) : (s.emitFrame bytes).cfg = s.cfg := rfl
@[simp] theorem State.emitFrame_parser (s : State) (bytes : List Byte) : (s.emitFrame bytes).parser = s.parser := rfl
@[simp] theorem State.emitFrame_crc (s : State) (bytes : List Byte) : (s.emitFrame bytes).crc = s.crc := rfl
@[simp] theorem State.emitFrame_result (s : State) (bytes : List Byte) : (s.emitFrame bytes).result = .bytes bytes := rfl
@[simp] theorem State.emitFrame_linkOpen (s : State) (bytes : List Byte) : (s.emitFrame bytes).linkOpen = s.linkOpen := rfl
@[simp] theorem State.emitFrame_rx (s : State) (bytes : List Byte) : (s.emitFrame bytes).rx = s.rx := rfl
@[simp] theorem State.emitFrame_tx (s : State) (bytes : List Byte) : (s.emitFrame bytes).tx = if s.linkOpen then s.tx ++ [bytes] else s.tx := rfl
@[simp] theorem State.emitFrame_pending (s : State) (bytes : List Byte) : (s.emitFrame bytes).pending = s.pending := rfl
@[simp] theorem State.emitFrame_interpRefused (s : State) (bytes : List Byte) : (s.emitFrame bytes).interpRefused = s.interpRefused := rfl
@[simp] theorem State.emitFrame_reports (s : State) (bytes : List Byte) : (s.emitFrame bytes).reports = s.reports := rfl
@[simp] theorem State.emitFrame_inputs (s : State) (bytes : List Byte) : (s.emitFrame bytes).inputs = s.inputs := rfl

@[simp] theorem ParserState.stored_st (p : ParserState) (b : Byte) : (p.stored b).st = p.st := rfl
@[simp] theorem ParserState.stored_cnt (p : ParserState) (b : Byte) : (p.stored b).cnt = p.cnt + 1 := rfl
@[simp] theorem ParserState.stored_plen (p : ParserState) (b : Byte) : (p.stored b).plen = p.plen := rfl
@[simp] theorem ParserState.stored_wflag (p : ParserState) (b : Byte) : (p.stored b).wflag = p.wflag := rfl
@[simp] theorem ParserState.stored_buf (p : ParserState) (b : Byte) : (p.stored b).buf = p.buf.put p.cnt.toNat b := rfl
@[simp] theorem ParserState.stored_overflowed (p : ParserState) (b : Byte) : (p.stored b).overflowed = p.overflowed := rfl

@[simp] theorem ParserState.parserReset_st (p : ParserState) : p.parserReset.st = .waitStart := rfl
@[simp] theorem ParserState.parserReset_cnt (p : ParserState) : p.parserReset.cnt = 0 := rfl
@[simp] theorem ParserState.parserReset_plen (p : ParserState) : p.parserReset.plen = 0 := rfl
@[simp] theorem ParserState.parserReset_wflag (p : ParserState) : p.parserReset.wflag = 0 := rfl
@[simp] theorem ParserState.parserReset_buf (p : ParserState) : p.parserReset.buf = p.buf := rfl
@[simp] theorem ParserState.parserReset_overflowed (p : ParserState) : p.parserReset.overflowed = p.overflowed := rfl

@[simp] theorem ParserState.decReset_st (p : ParserState) : p.decReset.st = .waitStart := rfl
@[simp] theorem ParserState.decReset_cnt (p : ParserState) : p.decReset.cnt = 0 := rfl
@[simp] theorem ParserState.decReset_plen (p : ParserState) : p.decReset.plen = 0 := rfl
@[simp] theorem ParserState.decReset_wflag (p : ParserState) : p.decReset.wflag = 0 := rfl
@[simp] theorem ParserState.decReset_buf (p : ParserState) : p.decReset.buf = p.buf := rfl
@[simp] theorem ParserState.decReset_overflowed (p : ParserState) : p.decReset.overflowed = false := rfl

@[simp] theorem takeEvent_fst (e : Event) (p : ParserState) : (takeEvent e p).1 = e := rfl
@[simp] theorem takeEvent_snd (e : Event) (p : ParserState) : (takeEvent e p).2 = p.parserReset := rfl
@[simp] theorem takeOverflow_fst (e : Event) (p : ParserState) : (takeOverflow e p).1 = e := rfl
@[simp] theorem takeOverflow_snd (e : Event) (p : ParserState) : (takeOverflow e p).2 = { p with overflowed := true } := rfl

end Sys2Proof.Machine
end

