-- ==== Sys2Proof/Laws/Memory.lean ====
section
/-! SUPPORT. The laws of the accumulation buffer: a read after a write, every other cell unchanged, the canonical form kept;
and what the guarded append can do (20_memory.md R52, R53). -/

namespace Sys2Proof.Machine

@[simp] theorem Memory.cell?_nil (i : Nat) : Memory.cell? [] i = none := rfl

theorem Memory.cell?_put_self (m : Memory) (i : Nat) (b : Byte) : (m.put i b).cell? i = some b := by
  induction m with
  | nil => simp [Memory.put, Memory.cell?]
  | cons x rest ih =>
    obtain ⟨a, c⟩ := x
    simp only [Memory.put]
    split
    · simp [Memory.cell?]
    · split
      · simp [Memory.cell?]
      · have h : a ≠ i := by omega
        simp [Memory.cell?, h, ih]

theorem Memory.cell?_put_of_ne (m : Memory) {i j : Nat} (b : Byte) (h : j ≠ i) : (m.put i b).cell? j = m.cell? j := by
  induction m with
  | nil => simp [Memory.put, Memory.cell?, Ne.symm h]
  | cons x rest ih =>
    obtain ⟨a, c⟩ := x
    simp only [Memory.put]
    split
    · simp [Memory.cell?, Ne.symm h]
    · split
      · subst_vars
        simp [Memory.cell?, Ne.symm h]
      · simp [Memory.cell?, ih]

/-- A cell of the memory after a write is the written one or was there before. -/
theorem Memory.mem_put {m : Memory} {i : Nat} {b : Byte} {x : Host.Cell} (h : x ∈ m.put i b) : x = (i, b) ∨ x ∈ m := by
  induction m with
  | nil => simpa [Memory.put] using h
  | cons y rest ih =>
    obtain ⟨a, c⟩ := y
    simp only [Memory.put] at h
    split at h
    · simpa using h
    · split at h
      · rcases List.mem_cons.mp h with h | h
        · exact .inl h
        · exact .inr (List.mem_cons_of_mem _ h)
      · rcases List.mem_cons.mp h with h | h
        · exact .inr (h ▸ List.mem_cons_self)
        · exact (ih h).imp id (List.mem_cons_of_mem _)

/-- Every write keeps the canonical form. -/
theorem Memory.put_wf {m : Memory} (h : m.wf) (i : Nat) (b : Byte) : (m.put i b).wf := by
  induction m with
  | nil => simp [Memory.put]
  | cons y rest ih =>
    obtain ⟨a, c⟩ := y
    obtain ⟨hy, hrest⟩ := List.pairwise_cons.mp h
    simp only [Memory.put]
    split
    · refine List.pairwise_cons.mpr ⟨fun x hx => ?_, h⟩
      rcases List.mem_cons.mp hx with rfl | hx
      · assumption
      · exact Nat.lt_trans ‹_› (hy x hx)
    · split
      · subst_vars
        exact List.pairwise_cons.mpr ⟨hy, hrest⟩
      · refine List.pairwise_cons.mpr ⟨fun x hx => ?_, ih hrest⟩
        rcases Memory.mem_put hx with rfl | hx
        · show a < i
          omega
        · exact hy x hx

theorem reset_memory_wf : State.reset.parser.buf.wf := List.Pairwise.nil

/-- Everything the guarded append can do: it raises `EV_OVERFLOW` with `cnt ≥ BUF_CAP`, or it stores. -/
theorem append_cases {c : Config} {p : ParserState} {b : Byte} {r : Except Event ParserState} (h : p.append c b = r) :
    (c.bufCap ≤ p.cnt.toNat ∧ r = .error .overflow) ∨ (p.cnt.toNat < c.bufCap ∧ r = .ok (p.stored b)) := by
  unfold ParserState.append at h
  split at h
  · exact .inl ⟨‹_›, h.symm⟩
  · exact .inr ⟨by omega, h.symm⟩

theorem append_ok {c : Config} {p : ParserState} (b : Byte) (h : p.cnt.toNat < c.bufCap) :
    p.append c b = .ok (p.stored b) := by
  rcases append_cases (c := c) (p := p) (b := b) rfl with ⟨h', _⟩ | ⟨_, h'⟩
  · omega
  · exact h'

/-- A read of a byte below `cnt` depends on the cell alone. -/
theorem byteAt_of_lt {p : ParserState} {i : Nat} (h : i < p.cnt.toNat) :
    p.byteAt i = (p.buf.cell? i).getD (Config.unspecifiedByte i) := if_pos h

/-- A read at or above `cnt` is a draw (R52). -/
theorem byteAt_of_le {p : ParserState} {i : Nat} (h : p.cnt.toNat ≤ i) : p.byteAt i = Config.unspecifiedByte i :=
  if_neg (by omega)

theorem stored_cnt_toNat {p : ParserState} (b : Byte) (h : p.cnt.toNat < 2047) :
    (p.stored b).cnt.toNat = p.cnt.toNat + 1 := by
  simp only [ParserState.stored_cnt]
  bv_omega

/-- The byte just stored is read back. -/
theorem byteAt_stored_self {p : ParserState} (b : Byte) (h : p.cnt.toNat < 2047) :
    (p.stored b).byteAt p.cnt.toNat = b := by
  rw [byteAt_of_lt (by rw [stored_cnt_toNat b h]; omega)]
  simp [Memory.cell?_put_self]

/-- A store leaves every byte below it as it was. -/
theorem byteAt_stored_of_lt {p : ParserState} {i : Nat} (b : Byte) (h : p.cnt.toNat < 2047) (hi : i < p.cnt.toNat) :
    (p.stored b).byteAt i = p.byteAt i := by
  rw [byteAt_of_lt (by rw [stored_cnt_toNat b h]; omega), byteAt_of_lt hi]
  simp [Memory.cell?_put_of_ne _ _ (Nat.ne_of_lt hi)]

end Sys2Proof.Machine
end

