-- ==== Sys2Proof/Laws/Decoder.lean ====
section
/-! SUPPORT. What one received byte, a chunk and the hand-over of events can do: one inversion lemma per function. -/

namespace Sys2Proof.Machine

/-- `flags >> 6` of a `u16` is at most 1023 (42_decoder.md R175). -/
theorem flagsPlenRaw_le (flags : Half) : (flagsPlenRaw flags).toNat ≤ maxPlen := by
  simp only [flagsPlenRaw, maxPlen]
  bv_omega

theorem flagsPlen_toNat (flags : Half) : (flagsPlen flags).toNat = (flagsPlenRaw flags).toNat := by
  have h := flagsPlenRaw_le flags
  simp only [flagsPlenRaw, maxPlen] at h
  simp only [flagsPlen, flagsPlenRaw, BitVec.toNat_setWidth]
  exact Nat.mod_eq_of_lt (by omega)

/-- Everything `WAIT_FLAGS` can do once the flags are complete: no event; the header decoded; the next state by the length. -/
theorem flagsComplete_eq (q : ParserState) :
    flagsComplete q =
      (.none,
        { q with
          plen := flagsPlen (le16 (q.byteAt 1) (q.byteAt 2))
          wflag := flagsWriteFlag (le16 (q.byteAt 1) (q.byteAt 2))
          st := if flagsPlenRaw (le16 (q.byteAt 1) (q.byteAt 2)) = 0 then .waitChecksum else .waitPayload }) := by
  have h := flagsPlenRaw_le (le16 (q.byteAt 1) (q.byteAt 2))
  simp only [flagsComplete, Nat.not_lt.mpr h, if_false]
  split <;> rfl

/-- A received byte that answers did so by its state's rule, on a decoder with no overflow recorded. -/
theorem rxByte_ok {c : Config} {b : Byte} {p q : ParserState} {e : Event} (h : rxByte c b p = .ok (e, q)) :
    p.overflowed = false ∧ rxRule c b p = (e, q) := by
  unfold rxByte at h
  split at h
  · simp at h
  · exact ⟨by simpa using ‹¬ p.overflowed = true›, by simpa using h⟩

theorem rxByte_eq {c : Config} {b : Byte} {p : ParserState} (h : p.overflowed = false) :
    rxByte c b p = .ok (rxRule c b p) := by
  simp [rxByte, h]

/-- A received byte faults exactly where an overflow is recorded (60_exceptions.md R233). -/
theorem rxByte_error_iff {c : Config} {b : Byte} {p : ParserState} {f : Fault} :
    rxByte c b p = .error f ↔ p.overflowed = true ∧ f = .bufferOverflow := by
  cases h : p.overflowed <;> simp [rxByte, h, eq_comm]

/-- Everything a state's rule can do (42_decoder.md R177; the overflow of 60_exceptions.md R233 in two of the cases). -/
theorem rxRule_cases {c : Config} {b : Byte} {p q : ParserState} {e : Event} (h : rxRule c b p = (e, q)) :
    (p.st = .waitStart ∧ b ≠ startByte ∧ e = .none ∧ q = p) ∨
    (p.st = .waitStart ∧ b = startByte ∧ 0 < c.bufCap ∧ e = .none
      ∧ q = { ({ p with cnt := 0 } : ParserState).stored b with st := .waitFlags }) ∨
    (p.st = .waitStart ∧ b = startByte ∧ c.bufCap = 0 ∧ e = .overflow ∧ q = { p with cnt := 0, overflowed := true }) ∨
    (p.st ≠ .waitStart ∧ c.bufCap ≤ p.cnt.toNat ∧ e = .overflow ∧ q = { p with overflowed := true }) ∨
    (p.st = .waitFlags ∧ p.cnt.toNat < c.bufCap ∧ (p.stored b).cnt.toNat ≠ 3 ∧ e = .none ∧ q = p.stored b) ∨
    (p.st = .waitFlags ∧ p.cnt.toNat < c.bufCap ∧ (p.stored b).cnt.toNat = 3 ∧ (e, q) = flagsComplete (p.stored b)) ∨
    (p.st = .waitPayload ∧ p.cnt.toNat < c.bufCap ∧ e = .none
      ∧ q = if (p.stored b).cnt.toNat = 3 + p.plen.toNat then { p.stored b with st := .waitChecksum } else p.stored b) ∨
    (p.st = .waitChecksum ∧ p.cnt.toNat < c.bufCap ∧ (p.stored b).cnt.toNat ≠ 5 + p.plen.toNat ∧ e = .none
      ∧ q = p.stored b) ∨
    (p.st = .waitChecksum ∧ p.cnt.toNat < c.bufCap ∧ (p.stored b).cnt.toNat = 5 + p.plen.toNat
      ∧ e = frameVerdict (p.stored b) ∧ q = (p.stored b).parserReset) := by
  unfold rxRule at h
  split at h <;> rename_i hst
  · unfold rxWaitStart at h
    split at h <;> rename_i hb
    · rcases append_cases (c := c) (p := { p with cnt := 0 }) (b := b) rfl with ⟨hc, ha⟩ | ⟨hc, ha⟩ <;>
        rw [ha] at h <;> simp [takeOverflow] at h
      · exact .inr (.inr (.inl ⟨hst, hb, by simpa using hc, h.1.symm, h.2.symm⟩))
      · exact .inr (.inl ⟨hst, hb, by simpa using hc, h.1.symm, h.2.symm⟩)
    · simp at h
      exact .inl ⟨hst, hb, h.1.symm, h.2.symm⟩
  all_goals
    have hne : p.st ≠ .waitStart := by simp [hst]
    rcases append_cases (c := c) (p := p) (b := b) rfl with ⟨hc, ha⟩ | ⟨hc, ha⟩ <;>
      simp only [rxWaitFlags, rxWaitPayload, rxWaitChecksum, takeOverflow, ha] at h
    · simp at h
      exact .inr (.inr (.inr (.inl ⟨hne, hc, h.1.symm, h.2.symm⟩)))
  · split at h <;> rename_i h3
    · exact .inr (.inr (.inr (.inr (.inr (.inl ⟨hst, hc, h3, h.symm⟩)))))
    · simp at h
      exact .inr (.inr (.inr (.inr (.inl ⟨hst, hc, h3, h.1.symm, h.2.symm⟩))))
  · simp only [Prod.mk.injEq] at h
    exact .inr (.inr (.inr (.inr (.inr (.inr (.inl ⟨hst, hc, h.1.symm, h.2.symm⟩))))))
  · split at h <;> rename_i h5 <;> simp [takeEvent] at h
    · exact .inr (.inr (.inr (.inr (.inr (.inr (.inr (.inr ⟨hst, hc, h5, h.1.symm, h.2.symm⟩)))))))
    · exact .inr (.inr (.inr (.inr (.inr (.inr (.inr (.inl ⟨hst, hc, h5, h.1.symm, h.2.symm⟩)))))))

@[simp] theorem rxAll_nil (c : Config) (p : ParserState) : rxAll c [] p = .ok ([], p) := rfl

/-- A chunk's first byte and the rest of it. -/
theorem rxAll_cons {c : Config} {b : Byte} {bytes : List Byte} {p q : ParserState} {e : Event}
    (h : rxByte c b p = .ok (e, q)) :
    rxAll c (b :: bytes) p = (rxAll c bytes q).map fun r => (e :: r.1, r.2) := by
  simp only [rxAll, h]
  cases rxAll c bytes q <;> rfl

/-- What a chunk that answers did: its first byte answered, and so did the rest. -/
theorem rxAll_cons_ok {c : Config} {b : Byte} {bytes : List Byte} {p r : ParserState} {es : List Event}
    (h : rxAll c (b :: bytes) p = .ok (es, r)) :
    ∃ e q es', rxByte c b p = .ok (e, q) ∧ rxAll c bytes q = .ok (es', r) ∧ es = e :: es' := by
  unfold rxAll at h
  split at h
  · simp at h
  · rename_i e q hb
    split at h
    · simp at h
    · rename_i es' r' hr
      simp at h
      exact ⟨e, q, es', hb, by rw [hr, h.2], h.1.symm⟩

theorem rxChunk_ok {c : Config} {bytes : List Byte} {p q : ParserState} {es : List Event}
    (h : rxChunk c bytes p = .ok (es, q)) :
    ∃ all, rxAll c bytes p = .ok (all, q) ∧ es = all.filter Event.isSome := by
  unfold rxChunk at h
  split at h
  · simp at h
  · rename_i all r hall
    simp at h
    exact ⟨all, by rw [hall, h.2], h.1.symm⟩

/-- A chunk on the machine, when it answers: ParserState and the answer, nothing else. -/
theorem receiveChunk_next {bytes : List Byte} {s t : State} (h : receiveChunk bytes s = .next t) :
    ∃ es p, rxChunk s.cfg bytes s.parser = .ok (es, p) ∧ t = (s.setParser p).answer (.events es) := by
  unfold receiveChunk at h
  split at h
  · simp at h
  · rename_i es p hc
    simp at h
    exact ⟨es, p, hc, h.symm⟩

theorem execDecRx_next {b : Byte} {s t : State} (h : execDecRx b s = .next t) :
    ∃ e p, rxByte s.cfg b s.parser = .ok (e, p) ∧ t = (s.setParser p).answer (.event e) := by
  unfold execDecRx at h
  split at h
  · simp at h
  · rename_i e p hc
    simp at h
    exact ⟨e, p, hc, h.symm⟩

/-- An accepted message lengthens the queue or the reports and changes nothing else. -/
theorem acceptMessage_eq (m : Message) (s : State) :
    ∃ ds rs, acceptMessage m s = { s with pending := s.pending ++ ds, reports := s.reports ++ rs } := by
  cases m with
  | identity t => exact ⟨[], [.identity t], by simp [acceptMessage, State.report]⟩
  | distanceSample d => exact ⟨[d], [], by simp [acceptMessage, State.enqueue]⟩
  | unknown => exact ⟨[], [], by simp [acceptMessage]⟩

/-- Everything the hand-over of one event can do: it lengthens the queue and the reports, and records a refused frame. -/
theorem handOver_eq (e : Event) (s : State) :
    ∃ ds rs, handOver e s =
      { s with
        pending := s.pending ++ ds
        reports := s.reports ++ rs
        interpRefused := s.interpRefused.or e.refusal? } := by
  cases e with
  | none => exact ⟨[], [], by simp [handOver, Event.refusal?]⟩
  | frame bytes plen w =>
    cases h : interpret bytes plen.toNat with
    | ok m =>
      obtain ⟨ds, rs, hm⟩ := acceptMessage_eq m s
      exact ⟨ds, rs, by simp [handOver, Event.refusal?, h, hm]⟩
    | error r => exact ⟨[], [], by simp [handOver, Event.refusal?, h, State.refuseFrame]⟩
  | checksumErr r c => exact ⟨[], [.checksumWarning r c], by simp [handOver, Event.refusal?, State.report]⟩
  | framingErr n => exact ⟨[], [], by simp [handOver, Event.refusal?]⟩
  | overflow => exact ⟨[], [], by simp [handOver, Event.refusal?]⟩

/-- Everything the hand-over of several events can do: the same, with the first refusal of all recorded. -/
theorem handOverAll_eq (es : List Event) (s : State) :
    ∃ ds rs, handOverAll es s =
      { s with
        pending := s.pending ++ ds
        reports := s.reports ++ rs
        interpRefused := s.interpRefused.or (es.findSome? Event.refusal?) } := by
  induction es generalizing s with
  | nil => exact ⟨[], [], by simp [handOverAll]⟩
  | cons e es ih =>
    obtain ⟨ds, rs, h⟩ := handOver_eq e s
    obtain ⟨ds', rs', h'⟩ := ih (handOver e s)
    refine ⟨ds ++ ds', rs ++ rs', ?_⟩
    rw [handOverAll, h', h]
    cases he : e.refusal? <;> simp [he]

/-- The hand-over leaves the block, the link and the inputs alone. -/
theorem handOverAll_frame (es : List Event) (s : State) :
    (handOverAll es s).cfg = s.cfg ∧ (handOverAll es s).parser = s.parser ∧ (handOverAll es s).crc = s.crc ∧
    (handOverAll es s).result = s.result ∧ (handOverAll es s).linkOpen = s.linkOpen ∧ (handOverAll es s).rx = s.rx ∧
    (handOverAll es s).tx = s.tx ∧ (handOverAll es s).inputs = s.inputs := by
  obtain ⟨ds, rs, h⟩ := handOverAll_eq es s
  simp [h]

/-- What a poll or a received message did when it answers: the chunk, no refused frame, then the hand-over. -/
theorem receiveAndDeliver_next {bytes : List Byte} {s t : State} (h : receiveAndDeliver bytes s = .next t) :
    ∃ es p, rxChunk s.cfg bytes s.parser = .ok (es, p) ∧ es.findSome? Event.refusal? = none ∧
      t = handOverAll es ((s.setParser p).answer (.handed es)) := by
  unfold receiveAndDeliver at h
  split at h
  · simp at h
  · rename_i es p hc
    split at h
    · simp at h
    · rename_i hn
      simp at h
      exact ⟨es, p, hc, hn, h.symm⟩

/-- A poll or a received message faults only where its chunk does. -/
theorem receiveAndDeliver_fault {bytes : List Byte} {s : State} {f : Fault} (h : receiveAndDeliver bytes s = .fault f) :
    rxChunk s.cfg bytes s.parser = .error f := by
  unfold receiveAndDeliver at h
  split at h
  · rename_i hc
    cases h
    exact hc
  · split at h <;> simp at h

/-- An operation that answers no events hands nothing over. -/
theorem interpretResult_of_nil {s : State} (h : s.result.eventList = []) : interpretResult s = s := by
  simp [interpretResult, h, handOverAll]

/-- What an operation's step did when it answers: the operation, then the hand-over of its events. -/
theorem thenHandOver_next {o : Host.Outcome State Fault Refusal} {t : State} (h : thenHandOver o = .next t) :
    ∃ u, o = .next u ∧ t = interpretResult u := by
  cases o with
  | next u => exact ⟨u, rfl, by simpa [thenHandOver] using h.symm⟩
  | fault f => simp [thenHandOver] at h
  | refused r => simp [thenHandOver] at h

theorem thenHandOver_fault {o : Host.Outcome State Fault Refusal} {f : Fault} (h : thenHandOver o = .fault f) :
    o = .fault f := by
  cases o with
  | next u => simp [thenHandOver] at h
  | fault g => exact h
  | refused r => simp [thenHandOver] at h

end Sys2Proof.Machine
end

