-- ==== Sys2Proof/Laws/Encoder.lean ====
section
/-! SUPPORT. The checksum fold and the shape of a composed frame (40_checksum.md R113, 41_encoder.md R130). -/

namespace Sys2Proof.Machine

@[simp] theorem bytesLe16_length (v : Half) : (bytesLe16 v).length = 2 := rfl
@[simp] theorem bytesLe32_length (v : Word) : (bytesLe32 v).length = 4 := rfl

theorem lo8_le16 (b0 b1 : Byte) : lo8 (le16 b0 b1) = b0 := by
  ext i hi
  simp [lo8, le16]

theorem hi8_le16 (b0 b1 : Byte) : hi8 (le16 b0 b1) = b1 := by
  ext i hi
  simp [hi8, le16, show 8 + i < 16 by omega, show i < 16 by omega, BitVec.getLsbD_eq_getElem hi]

theorem le16_lo8_hi8 (v : Half) : le16 (lo8 v) (hi8 v) = v := by
  ext i hi
  by_cases h : i < 8
  · simp [lo8, hi8, le16, h, BitVec.getLsbD_eq_getElem hi]
  · have h1 : 8 + (i - 8) = i := by omega
    simp [lo8, hi8, le16, h, h1, hi, show i - 8 < 8 by omega]

theorem crc16_append (xs ys : List Byte) : crc16 (xs ++ ys) = ys.foldl crcStep (crc16 xs) := List.foldl_append

/-- A composed frame: its header and payload, then their checksum low byte first. -/
theorem composeFrame_eq (declared : Nat) (wf : BitVec 1) (op : Byte) (val : List Byte) :
    composeFrame declared wf op val =
      startByte :: lo8 (assembleFlags declared wf) :: hi8 (assembleFlags declared wf) :: op :: (val ++
        bytesLe16 (crc16 (startByte :: lo8 (assembleFlags declared wf) :: hi8 (assembleFlags declared wf) :: op :: val))) :=
  rfl

@[simp] theorem composeFrame_length (declared : Nat) (wf : BitVec 1) (op : Byte) (val : List Byte) :
    (composeFrame declared wf op val).length = val.length + 6 := by
  simp [composeFrame_eq]

@[simp] theorem encodeFrame_length (op : Byte) (wf : BitVec 1) (val : List Byte) :
    (encodeFrame op wf val).length = val.length + 6 := by
  simp [encodeFrame]

@[simp] theorem encodeInt16_length (c : Config) (op : Byte) (v : Half) : (encodeInt16 c op v).length = 8 := by
  simp [encodeInt16]

end Sys2Proof.Machine
end

