-- ==== Sys2Proof/Laws/Decode.lean ====
section
/-! SUPPORT. Each operand reader takes back what the encoder wrote, whatever follows it. -/

namespace Sys2Proof

open Sys2Proof.Machine

@[simp] theorem withOperand_ok {α : Type} (a : α) (rest : List Byte)
    (f : α → List Byte → Except DecodeError (Instr × List Byte)) : withOperand (.ok (a, rest)) f = f a rest := rfl

theorem readSeq_encodeSeq (bytes rest : List Byte) : readSeq (encodeSeq bytes ++ rest) = .ok (bytes, rest) := by
  induction bytes with
  | nil => cases rest <;> simp [encodeSeq, readSeq]
  | cons b bytes ih =>
    simp only [encodeSeq, List.cons_append, readSeq, ih]
    simp

theorem readBytes_append (bytes rest : List Byte) : readBytes bytes.length (bytes ++ rest) = .ok (bytes, rest) := by
  induction bytes with
  | nil => simp [readBytes]
  | cons b bytes ih => simp [readBytes, ih]

theorem readHalf_bytesLe16 (v : Half) (rest : List Byte) : readHalf (bytesLe16 v ++ rest) = .ok (v, rest) := by
  simp [bytesLe16, readHalf, le16_lo8_hi8]

theorem encodeSeq_ne_nil (bytes : List Byte) : encodeSeq bytes ≠ [] := by
  cases bytes <;> simp [encodeSeq]

end Sys2Proof
end

