-- ==== Sys2Proof/Laws/PerInstr.lean ====
section
/-! SUPPORT. Facts about each operation as syntax, one lemma per constructor. SelectByte: the first byte of an encoding is
the operation's `sel` code at the command port (30_encoding.md R94), or the start byte on the wire (R80). -/

namespace Sys2Proof.Laws

open Sys2Proof.Machine

/-- The first byte of an operation's encoding. -/
def SelectByte.Statement (i : Instr) : Prop :=
  (encode i).head? = some (match i.sel with | some sel => sel.setWidth 8 | none => startByte)

theorem SelectByte.crcInit : SelectByte.Statement .crcInit := rfl
theorem SelectByte.crcStep (b : Byte) : SelectByte.Statement (.crcStep b) := rfl
theorem SelectByte.crcRead : SelectByte.Statement .crcRead := rfl
theorem SelectByte.crcBlock (bytes : List Byte) : SelectByte.Statement (.crcBlock bytes) := rfl
theorem SelectByte.encFrame (op : Byte) (wf : BitVec 1) (val : List Byte) : SelectByte.Statement (.encFrame op wf val) := rfl
theorem SelectByte.encGet (op : Byte) : SelectByte.Statement (.encGet op) := rfl
theorem SelectByte.encWr8 (op v : Byte) : SelectByte.Statement (.encWr8 op v) := rfl
theorem SelectByte.encWr16 (op : Byte) (v : Half) : SelectByte.Statement (.encWr16 op v) := rfl
theorem SelectByte.encWr32 (op : Byte) (v : Word) : SelectByte.Statement (.encWr32 op v) := rfl
theorem SelectByte.encWrf (op : Byte) (p : Word) : SelectByte.Statement (.encWrf op p) := rfl
theorem SelectByte.decRx (b : Byte) : SelectByte.Statement (.decRx b) := rfl
theorem SelectByte.decRxn (bytes : List Byte) : SelectByte.Statement (.decRxn bytes) := rfl
theorem SelectByte.decReset : SelectByte.Statement .decReset := rfl
theorem SelectByte.selD : SelectByte.Statement .selD := rfl
theorem SelectByte.selE : SelectByte.Statement .selE := rfl
theorem SelectByte.selF : SelectByte.Statement .selF := rfl
theorem SelectByte.frameRx (wf : BitVec 1) (rsv : BitVec 5) (payload : List Byte) (ck : Half) :
    SelectByte.Statement (.frameRx wf rsv payload ck) := rfl
theorem SelectByte.msgProductName (wf : BitVec 1) (rsv : BitVec 5) (text : List Byte) (ck : Half) :
    SelectByte.Statement (.msgProductName wf rsv text ck) := rfl
theorem SelectByte.msgDistanceSample (wf : BitVec 1) (rsv : BitVec 5) (first last angle : Half) (extra : List Byte)
    (ck : Half) : SelectByte.Statement (.msgDistanceSample wf rsv first last angle extra ck) := rfl
theorem SelectByte.msgScanEnable : SelectByte.Statement .msgScanEnable := rfl

end Sys2Proof.Laws
end

