-- ==== Sys2Proof/Certificates/Slice0/Obligations.lean ====
section
/-! DEFINITION. The statements for the provers. Each docstring names the rule of spec/ the statement formalises, and says
where a clause rests on a choice of the model's own (its log entry). -/

open Sys2Proof Sys2Proof.Machine

/-! ### The checksum engine -/

/-- R114. `CRC.INIT` writes 0 to `crc`, answers nothing, changes nothing else; a `CRC.READ` then answers 0. -/
def Obligations.CrcInitWritesZero : Prop :=
  Instr.crcInit.sel = some 0x0 ∧
  ∀ s : State, exec .crcInit s = .next { s with crc := 0, result := .none } ∧
    exec .crcRead { s with crc := 0, result := .none } = .next { s with crc := 0, result := .checksum 0 }

/-- R115, with its corner cases and its example. -/
def Obligations.CrcStepFoldsOneByte : Prop :=
  (∀ b, (Instr.crcStep b).sel = some 0x1) ∧
  (∀ (b : Byte) (s : State), exec (.crcStep b) s = .next { s with crc := crcStep s.crc b, result := .none }) ∧
  crcStep 0x0000 0x00 = 0x0000 ∧ crcStep 0xFFFF 0xFF = 0xFF00 ∧ crcStep 0x0001 0x00 = 0x0100 ∧
  crcStep 0x0100 0x00 = 0x1021 ∧ crcStep 0x8000 0x00 = 0x9188 ∧ crcStep 0x0000 0xAA = 0x14A0

/-- R117: `CRC.READ` answers `crc` and does not change it, so reading twice gives the same value; with its example. -/
def Obligations.CrcReadAnswersRegister : Prop :=
  Instr.crcRead.sel = some 0x2 ∧
  (∀ s : State, exec .crcRead s = .next { s with result := .checksum s.crc } ∧
    exec .crcRead { s with result := .checksum s.crc } = .next { s with result := .checksum s.crc }) ∧
  ∀ s : State, runOps [.crcInit, .crcStep 0xAA, .crcStep 0x40, .crcStep 0x00, .crcStep 0x00, .crcRead] s =
    some ([.none, .none, .none, .none, .none, .checksum 0x9F70], { s with crc := 0x9F70, result := .checksum 0x9F70 })

/-- R118: `CRC.BLOCK` answers `crc16` of its operand and touches no register; leading zero bytes do not count. -/
def Obligations.CrcBlockLeavesRegister : Prop :=
  (∀ bytes, (Instr.crcBlock bytes).sel = some 0x3) ∧
  (∀ (bytes : List Byte) (s : State), exec (.crcBlock bytes) s = .next { s with result := .checksum (crc16 bytes) }) ∧
  crc16 [] = 0 ∧ (∀ n : Nat, crc16 (List.replicate n 0) = 0) ∧ (∀ bytes : List Byte, crc16 (0 :: bytes) = crc16 bytes) ∧
  crc16 [0xAA, 0x81, 0x00, 0x60, 0x01] = 0xDC4D

/-- R112: the closed form of the step, bit by bit, and its two consequences. -/
def Obligations.CrcStepClosedForm : Prop :=
  (∀ (crc : Half) (b : Byte),
    let t : Byte := hi8 crc ^^^ b
    let u : Byte := t ^^^ (t >>> 4)
    let l : Byte := lo8 crc
    let r : Half := crcStep crc b
    (u.extractLsb 7 4 = t.extractLsb 7 4 ∧ u.extractLsb 3 0 = t.extractLsb 3 0 ^^^ t.extractLsb 7 4) ∧
    r = (l.setWidth 16 <<< 8) ^^^ u.setWidth 16 ^^^ (u.setWidth 16 <<< 5) ^^^ ((u &&& 0x0F).setWidth 16 <<< 12) ∧
    (r.getLsbD 15 = (l.getLsbD 7 ^^ u.getLsbD 3) ∧ r.getLsbD 14 = (l.getLsbD 6 ^^ u.getLsbD 2) ∧
      r.getLsbD 13 = (l.getLsbD 5 ^^ u.getLsbD 1) ∧ r.getLsbD 12 = (l.getLsbD 4 ^^ u.getLsbD 0 ^^ u.getLsbD 7) ∧
      r.getLsbD 11 = (l.getLsbD 3 ^^ u.getLsbD 6) ∧ r.getLsbD 10 = (l.getLsbD 2 ^^ u.getLsbD 5) ∧
      r.getLsbD 9 = (l.getLsbD 1 ^^ u.getLsbD 4) ∧ r.getLsbD 8 = (l.getLsbD 0 ^^ u.getLsbD 3) ∧
      r.getLsbD 7 = (u.getLsbD 7 ^^ u.getLsbD 2) ∧ r.getLsbD 6 = (u.getLsbD 6 ^^ u.getLsbD 1) ∧
      r.getLsbD 5 = (u.getLsbD 5 ^^ u.getLsbD 0) ∧ r.getLsbD 4 = u.getLsbD 4 ∧ r.getLsbD 3 = u.getLsbD 3 ∧
      r.getLsbD 2 = u.getLsbD 2 ∧ r.getLsbD 1 = u.getLsbD 1 ∧ r.getLsbD 0 = u.getLsbD 0)) ∧
  (∀ (crc : Half) (b : Byte), crcStep crc b = crcStep (crc ^^^ (b.setWidth 16 <<< 8)) 0) ∧
  (∀ (a a' : Half) (b b' : Byte), crcStep (a ^^^ a') (b ^^^ b') = crcStep a b ^^^ crcStep a' b')

/-- R113 and R116: `crc16` byte by byte, and fed on from where a first sequence left it. -/
def Obligations.ChecksumRunsByteByByte : Prop :=
  crc16 [] = 0 ∧ (∀ (xs : List Byte) (b : Byte), crc16 (xs ++ [b]) = crcStep (crc16 xs) b) ∧
  ∀ xs ys : List Byte, ys.foldl crcStep (crc16 xs) = crc16 (xs ++ ys)

/-- R121(b): a single bit flip anywhere in the input changes the checksum. -/
def Obligations.SingleBitFlipChangesChecksum : Prop :=
  ∀ (xs ys : List Byte) (b : Byte) (k : Nat), k < 8 →
    crc16 (xs ++ (b ^^^ (1 <<< k)) :: ys) ≠ crc16 (xs ++ b :: ys)

/-! ### The frame encoder -/

/-- R130: the general encoder operation; the bytes, their number and the flags field. That the bytes go to the transport in
the same step while it is open is R131 and R235 as log entry 15 reads them (DEDUCED); that a value payload above 1022 bytes
is refused is the spec's decision D17 (log entry 12, DEDUCED). -/
def Obligations.EncFrameBuildsFrame : Prop :=
  (∀ op wf val, (Instr.encFrame op wf val).sel = some 0x4) ∧
  (∀ (op : Byte) (wf : BitVec 1) (val : List Byte) (s : State), val.length ≤ 1022 →
    let n := 1 + val.length
    let flags : Half := (BitVec.ofNat 16 n <<< 6) ||| wf.setWidth 16
    let h : List Byte := [0xAA, lo8 flags, hi8 flags, op] ++ val
    let result : List Byte := h ++ [lo8 (crc16 h), hi8 (crc16 h)]
    exec (.encFrame op wf val) s =
      .next { s with tx := if s.linkOpen then s.tx ++ [result] else s.tx, result := .bytes result } ∧
    result.length = 6 + val.length ∧ result.length = 5 + n ∧
    (flagsPlen flags).toNat = n ∧ flagsWriteFlag flags = wf ∧ flagsReserved flags = 0 ∧
    (val.length = 1022 → flags = 0xFFC0 ||| wf.setWidth 16 ∧ result.length = 1028)) ∧
  (∀ (op : Byte) (wf : BitVec 1) (val : List Byte) (s : State), 1022 < val.length →
    exec (.encFrame op wf val) s = .refused (.encRefused val.length)) ∧
  encodeFrame 0x10 0 [0x01, 0x02, 0x03] = [0xAA, 0x00, 0x01, 0x10, 0x01, 0x02, 0x03, 0x86, 0xE6]

/-- R132 and R236: a value payload above 1022 bytes is refused with `ENC_REFUSED` and its length, without a frame, by the
spec's own decision D17 (log entry 12, DEDUCED); with at most 1022 value bytes, and in the five fixed shapes, never. -/
def Obligations.OnlyOverlongFrameIsRefused : Prop :=
  (∀ (op : Byte) (wf : BitVec 1) (val : List Byte) (s : State), 1022 < val.length →
    exec (.encFrame op wf val) s = .refused (.encRefused val.length) ∧
    (Refusal.encRefused val.length).code? = some 5) ∧
  (∀ (op : Byte) (wf : BitVec 1) (val : List Byte) (s : State), val.length ≤ 1022 →
    ∃ t, exec (.encFrame op wf val) s = .next t) ∧
  ∀ (i : Instr) (s : State), (∃ k, i.sel = some k ∧ 5 ≤ k.toNat ∧ k.toNat ≤ 9) → ∃ t, exec i s = .next t

/-- R134: the Get shape, six bytes, with its examples. That the frame goes to an open transport in the same step is R131 and
R235 as log entry 15 reads them (DEDUCED). -/
def Obligations.EncGetBuildsGetFrame : Prop :=
  (∀ op, (Instr.encGet op).sel = some 0x5) ∧
  (∀ (op : Byte) (s : State),
    let h : List Byte := [0xAA, 0x40, 0x00, op]
    let result := h ++ [lo8 (crc16 h), hi8 (crc16 h)]
    exec (.encGet op) s =
      .next { s with tx := if s.linkOpen then s.tx ++ [result] else s.tx, result := .bytes result } ∧
    exec (.encGet op) s = exec (.encFrame op 0 []) s) ∧
  encodeFrame 0 0 [] = [0xAA, 0x40, 0x00, 0x00, 0x70, 0x9F] ∧
  encodeFrame 44 0 [] = [0xAA, 0x40, 0x00, 0x2C, 0x9E, 0x7A] ∧
  encodeFrame 255 0 [] = [0xAA, 0x40, 0x00, 0xFF, 0x80, 0x81]

/-- R135: the Write-int8 shape, seven bytes, with its examples. That the frame goes to an open transport in the same step is
R131 and R235 as log entry 15 reads them (DEDUCED); the patterns of the negative values are two's complement (log entry 14,
PRESUMED). -/
def Obligations.EncWr8BuildsInt8Frame : Prop :=
  (∀ op v, (Instr.encWr8 op v).sel = some 0x6) ∧
  (∀ (op v : Byte) (s : State),
    let h : List Byte := [0xAA, 0x81, 0x00, op, v]
    let result := h ++ [lo8 (crc16 h), hi8 (crc16 h)]
    exec (.encWr8 op v) s =
      .next { s with tx := if s.linkOpen then s.tx ++ [result] else s.tx, result := .bytes result } ∧
    exec (.encWr8 op v) s = exec (.encFrame op 1 [v]) s) ∧
  encodeFrame 96 1 [BitVec.ofInt 8 1] = [0xAA, 0x81, 0x00, 0x60, 0x01, 0x4D, 0xDC] ∧
  encodeFrame 96 1 [BitVec.ofInt 8 0] = [0xAA, 0x81, 0x00, 0x60, 0x00, 0x6C, 0xCC] ∧
  encodeFrame 96 1 [BitVec.ofInt 8 (-1)] = [0xAA, 0x81, 0x00, 0x60, 0xFF, 0x9C, 0xD2] ∧
  encodeFrame 1 1 [BitVec.ofInt 8 (-128)] = [0xAA, 0x81, 0x00, 0x01, 0x80, 0xFF, 0x65] ∧
  BitVec.ofInt 8 200 = BitVec.ofInt 8 (-56)

/-- R136: the Write-int16 shape under both values of `INT16_DECLARED_PLEN`; eight bytes in both; with its examples. That the
frame goes to an open transport in the same step is R131 and R235 as log entry 15 reads them (DEDUCED); the patterns of the
negative values are two's complement (log entry 14, PRESUMED). -/
def Obligations.EncWr16BuildsInt16Frame : Prop :=
  (∀ op v, (Instr.encWr16 op v).sel = some 0x7) ∧
  (∀ (op : Byte) (v : Half) (s : State),
    let head : List Byte := match s.cfg.int16DeclaredPlen with
      | .three => [0xAA, 0xC1, 0x00]
      | .four => [0xAA, 0x01, 0x01]
    let h : List Byte := head ++ [op, lo8 v, hi8 v]
    let result := h ++ [lo8 (crc16 h), hi8 (crc16 h)]
    exec (.encWr16 op v) s =
      .next { s with tx := if s.linkOpen then s.tx ++ [result] else s.tx, result := .bytes result } ∧
    (s.cfg.int16DeclaredPlen = .three → exec (.encWr16 op v) s = exec (.encFrame op 1 (bytesLe16 v)) s)) ∧
  (∀ cap, encodeInt16 ⟨cap, .three⟩ 5 0x1234 = [0xAA, 0xC1, 0x00, 0x05, 0x34, 0x12, 0x11, 0xEE] ∧
    encodeInt16 ⟨cap, .three⟩ 5 (BitVec.ofInt 16 (-2)) = [0xAA, 0xC1, 0x00, 0x05, 0xFE, 0xFF, 0x0D, 0x3B] ∧
    encodeInt16 ⟨cap, .three⟩ 5 (BitVec.ofInt 16 (-32768)) = [0xAA, 0xC1, 0x00, 0x05, 0x00, 0x80, 0xBB, 0x84] ∧
    encodeInt16 ⟨cap, .four⟩ 5 0x1234 = [0xAA, 0x01, 0x01, 0x05, 0x34, 0x12, 0x1D, 0xAB] ∧
    encodeInt16 ⟨cap, .four⟩ 5 (BitVec.ofInt 16 (-2)) = [0xAA, 0x01, 0x01, 0x05, 0xFE, 0xFF, 0x01, 0x7E])

/-- R137: the Write-int32 shape, ten bytes, least significant value byte first, with its examples. That the frame goes to an
open transport in the same step is R131 and R235 as log entry 15 reads them (DEDUCED); the patterns of the negative values
are two's complement (log entry 14, PRESUMED). -/
def Obligations.EncWr32BuildsInt32Frame : Prop :=
  (∀ op v, (Instr.encWr32 op v).sel = some 0x8) ∧
  (∀ (op : Byte) (v : Word) (s : State),
    let h : List Byte := [0xAA, 0x41, 0x01, op, v.extractLsb' 0 8, v.extractLsb' 8 8, v.extractLsb' 16 8, v.extractLsb' 24 8]
    let result := h ++ [lo8 (crc16 h), hi8 (crc16 h)]
    exec (.encWr32 op v) s =
      .next { s with tx := if s.linkOpen then s.tx ++ [result] else s.tx, result := .bytes result } ∧
    exec (.encWr32 op v) s = exec (.encFrame op 1 (bytesLe32 v)) s) ∧
  encodeFrame 7 1 (bytesLe32 0x12345678) = [0xAA, 0x41, 0x01, 0x07, 0x78, 0x56, 0x34, 0x12, 0x96, 0x80] ∧
  encodeFrame 7 1 (bytesLe32 (BitVec.ofInt 32 (-1))) = [0xAA, 0x41, 0x01, 0x07, 0xFF, 0xFF, 0xFF, 0xFF, 0xA3, 0xC9] ∧
  encodeFrame 7 1 (bytesLe32 (BitVec.ofInt 32 (-2147483648))) =
    [0xAA, 0x41, 0x01, 0x07, 0x00, 0x00, 0x00, 0x80, 0xE4, 0xC1]

/-- R138: the Write-float shape passes its 32-bit pattern through unread, which is the spec's decision D18, and gives the
bytes of Write-int32 of the same pattern. That the frame goes to an open transport in the same step is R131 and R235 as log
entry 15 reads them (DEDUCED). -/
def Obligations.EncWrfPassesPatternThrough : Prop :=
  (∀ op p, (Instr.encWrf op p).sel = some 0x9) ∧
  (∀ (op : Byte) (p : Word) (s : State),
    let h : List Byte := [0xAA, 0x41, 0x01, op, p.extractLsb' 0 8, p.extractLsb' 8 8, p.extractLsb' 16 8, p.extractLsb' 24 8]
    let result := h ++ [lo8 (crc16 h), hi8 (crc16 h)]
    exec (.encWrf op p) s =
      .next { s with tx := if s.linkOpen then s.tx ++ [result] else s.tx, result := .bytes result } ∧
    exec (.encWrf op p) s = exec (.encFrame op 1 (bytesLe32 p)) s ∧
    exec (.encWrf op p) s = exec (.encWr32 op p) s) ∧
  encodeFrame 9 1 (bytesLe32 0x3F800000) = [0xAA, 0x41, 0x01, 0x09, 0x00, 0x00, 0x80, 0x3F, 0xE0, 0x43] ∧
  encodeFrame 9 1 (bytesLe32 0xC2360000) = [0xAA, 0x41, 0x01, 0x09, 0x00, 0x00, 0x36, 0xC2, 0xF9, 0xC9] ∧
  encodeFrame 9 1 (bytesLe32 0x7FC00000) = [0xAA, 0x41, 0x01, 0x09, 0x00, 0x00, 0xC0, 0x7F, 0xE8, 0x06]

/-- R139 and R60(c): the frames of successive encoder operations reach an open transport whole, unmixed and in the order
issued; a transport that is not open gets none (R235). That they reach it in the steps that encode them is log entry 15
(DEDUCED). -/
def Obligations.EncodedFramesLeaveWholeInOrder : Prop :=
  ∀ (ops : List Instr) (s t : State) (rs : List Result),
    (∀ i ∈ ops, ∃ k, i.sel = some k ∧ 4 ≤ k.toNat ∧ k.toNat ≤ 9) → runOps ops s = some (rs, t) →
    ∃ frames : List (List Byte), rs = frames.map Result.bytes ∧ frames.length = ops.length ∧
      t.tx = if s.linkOpen then s.tx ++ frames else s.tx

/-! ### The frame decoder -/

/-- R163: state `WAIT_START`. Any byte but `0xAA` is dropped; `0xAA` resets the count, is stored at index 0 and starts a
frame. The premise on `overflowed` is R233: after an overflow nothing is promised until `DEC.RESET` (log entry 5). -/
def Obligations.WaitStartLooksForStartByte : Prop :=
  ∀ (s : State) (b : Byte), s.cfg.legal → s.parser.overflowed = false → s.parser.st = .waitStart →
    (b ≠ 0xAA → exec (.decRx b) s = .next { s with result := .event .none }) ∧
    (b = 0xAA → exec (.decRx b) s =
      .next { s with
        parser := { s.parser with st := .waitFlags, cnt := 1, buf := s.parser.buf.put 0 0xAA }
        result := .event .none })

/-- R164 and R174: state `WAIT_FLAGS`. The first flags byte is only stored; the second one decodes the header; a zero length
goes straight to the checksum; the framing error cannot arise from a 16-bit field (R175). The premise on `overflowed` is R233
(log entry 5). -/
def Obligations.WaitFlagsDecodesHeader : Prop :=
  (∀ (s : State) (b : Byte), s.cfg.legal → s.parser.overflowed = false → s.parser.st = .waitFlags →
    (s.parser.cnt = 1 → exec (.decRx b) s =
      .next { s with parser := { s.parser with cnt := 2, buf := s.parser.buf.put 1 b }, result := .event .none }) ∧
    (s.parser.cnt = 2 → exec (.decRx b) s =
      .next { s with
        parser :=
          { st := if flagsPlen (le16 (s.parser.byteAt 1) b) = 0 then .waitChecksum else .waitPayload
            cnt := 3
            plen := flagsPlen (le16 (s.parser.byteAt 1) b)
            wflag := flagsWriteFlag (le16 (s.parser.byteAt 1) b)
            buf := s.parser.buf.put 2 b }
        result := .event .none })) ∧
  ∀ flags : Half, (flagsPlenRaw flags).toNat ≤ 1023 ∧ (flagsPlen flags).toNat = (flagsPlenRaw flags).toNat

/-- R165: state `WAIT_PAYLOAD`, in every state that satisfies R26. -/
def Obligations.WaitPayloadStoresPayload : Prop :=
  ∀ (s : State) (b : Byte), s.Inv → s.parser.st = .waitPayload →
    exec (.decRx b) s =
      .next { s with
        parser :=
          { s.parser with
            cnt := s.parser.cnt + 1
            buf := s.parser.buf.put s.parser.cnt.toNat b
            st := if s.parser.cnt.toNat + 1 = 3 + s.parser.plen.toNat then .waitChecksum else .waitPayload }
        result := .event .none }

/-- R166 and R167: state `WAIT_CHECKSUM`, in every state that satisfies R26. The first checksum byte is only stored; the
second one compares, answers the frame or the checksum error, and resets ParserState either way. -/
def Obligations.WaitChecksumVerifiesFrame : Prop :=
  ∀ (s : State) (b : Byte), s.Inv → s.parser.st = .waitChecksum →
    (s.parser.cnt.toNat = 3 + s.parser.plen.toNat → exec (.decRx b) s =
      .next { s with
        parser := { s.parser with cnt := s.parser.cnt + 1, buf := s.parser.buf.put s.parser.cnt.toNat b }
        result := .event .none }) ∧
    (s.parser.cnt.toNat = 4 + s.parser.plen.toNat →
      let n := 3 + s.parser.plen.toNat
      let rxCk := le16 (s.parser.byteAt n) b
      let calcCk := crc16 (s.parser.bytesTo n)
      exec (.decRx b) s =
        .next { s with
          parser := { st := .waitStart, cnt := 0, plen := 0, wflag := 0, buf := s.parser.buf.put s.parser.cnt.toNat b }
          result := .event (if rxCk = calcCk then .frame (s.parser.bytesTo n) s.parser.plen s.parser.wflag
            else .checksumErr rxCk calcCk) })

/-- R170, R167 and R260, the spec's decision D15: `DEC.RESET` sets the decoder's four registers, in any state and with no
event; the cells of `buf` and `crc` stay. That it clears a recorded overflow is R233 as log entry 5 reads it (DEDUCED). -/
def Obligations.DecResetClearsRegisters : Prop :=
  Instr.decReset.sel = some 0xC ∧
  ∀ s : State, exec .decReset s =
    .next { s with
      parser := { st := .waitStart, cnt := 0, plen := 0, wflag := 0, buf := s.parser.buf, overflowed := false }
      result := .none }

/-- R168: `DEC.RXN` is `DEC.RX` on each byte in order; its answer is the list of the events that are not `EV_NONE`; it faults
when one of them faults. -/
def Obligations.ChunkIsBytewise : Prop :=
  (∀ bytes, (Instr.decRxn bytes).sel = some 0xB) ∧
  ∀ (bytes : List Byte) (s : State),
    match runOps (bytes.map Instr.decRx) s with
    | some (rs, t) => ∃ es : List Event, rs = es.map Result.event ∧
        exec (.decRxn bytes) s = .next { t with result := .events (es.filter fun e => decide (e ≠ .none)) }
    | none => exec (.decRxn bytes) s = .fault .bufferOverflow

/-- R169: where a byte stream is cut into chunks cannot be observed, from any state. -/
def Obligations.ChunkingCannotBeObserved : Prop :=
  ∀ (xs ys : List Byte) (s : State),
    (∀ f, exec (.decRxn xs) s = .fault f → exec (.decRxn (xs ++ ys)) s = .fault f) ∧
    ∀ t, exec (.decRxn xs) s = .next t →
      (∀ f, exec (.decRxn ys) t = .fault f → exec (.decRxn (xs ++ ys)) s = .fault f) ∧
      ∀ u, exec (.decRxn ys) t = .next u →
        ∃ es fs, t.result = .events es ∧ u.result = .events fs ∧
          exec (.decRxn (xs ++ ys)) s = .next { u with result := .events (es ++ fs) }

/-- R171: what a delivered frame holds, in every state that satisfies R26. -/
def Obligations.DeliveredFrameHoldsHeaderAndPayload : Prop :=
  ∀ (s t : State) (b : Byte) (bytes : List Byte) (n : BitVec 10) (w : BitVec 1), s.Inv →
    exec (.decRx b) s = .next t → t.result = .event (.frame bytes n w) →
    bytes.length = 3 + n.toNat ∧
    (∃ f1 f2 payload, bytes = 0xAA :: f1 :: f2 :: payload ∧ payload.length = n.toNat ∧
      flagsPlen (le16 f1 f2) = n ∧ flagsWriteFlag (le16 f1 f2) = w) ∧
    s.parser.byteAt (3 + n.toNat) = lo8 (crc16 bytes) ∧ b = hi8 (crc16 bytes)

/-- R173 and R178: once a start byte is taken the decoder consumes exactly `4 + plen` more bytes, whatever they are; the last
of them, and no other, answers: the frame if the checksum matches, else the checksum error; then it waits for a start byte
again. It stores them at the indices from 0 and leaves every other cell. The premise on `overflowed` is R233 (log entry 5).
-/
def Obligations.StartByteCommitsToWholeFrame : Prop :=
  ∀ (c : Config) (p : ParserState) (f1 f2 c0 c1 : Byte) (payload : List Byte),
    c.legal → p.overflowed = false → p.st = .waitStart → payload.length = (flagsPlen (le16 f1 f2)).toNat →
    let frame : List Byte := 0xAA :: f1 :: f2 :: payload
    ∃ q : ParserState, q.st = .waitStart ∧ q.cnt = 0 ∧ q.plen = 0 ∧ q.wflag = 0 ∧ q.overflowed = false ∧
      (∀ a, q.buf.cell? a = (frame ++ [c0, c1])[a]?.or (p.buf.cell? a)) ∧
      rxAll c (frame ++ [c0, c1]) p =
        .ok (List.replicate (4 + payload.length) .none ++
          [if le16 c0 c1 = crc16 frame then .frame frame (flagsPlen (le16 f1 f2)) (flagsWriteFlag (le16 f1 f2))
            else .checksumErr (le16 c0 c1) (crc16 frame)], q)

/-- R140: an encoded frame given byte by byte to a decoder in `WAIT_START` answers on its last byte, with the same opcode,
write flag and value bytes. It holds for every shape with `INT16_DECLARED_PLEN = 3`; with 4 the eight bytes of a Write-int16
give no event at all. The premise on `overflowed` is R233 (log entry 5). -/
def Obligations.EncodedFrameRoundTrip : Prop :=
  (∀ (c : Config) (p : ParserState) (op : Byte) (wf : BitVec 1) (val : List Byte),
    c.legal → p.overflowed = false → p.st = .waitStart → val.length ≤ 1022 →
    let flags := assembleFlags (1 + val.length) wf
    ∃ q : ParserState, q.st = .waitStart ∧ q.cnt = 0 ∧ q.plen = 0 ∧ q.wflag = 0 ∧
      rxAll c (encodeFrame op wf val) p =
        .ok (List.replicate (5 + val.length) .none ++
          [.frame ([0xAA, lo8 flags, hi8 flags, op] ++ val) (BitVec.ofNat 10 (1 + val.length)) wf], q)) ∧
  (∀ (c : Config) (op : Byte) (v : Half), c.int16DeclaredPlen = .three →
    encodeInt16 c op v = encodeFrame op 1 (bytesLe16 v)) ∧
  ∀ (c : Config) (p : ParserState) (op : Byte) (v : Half), c.legal → p.overflowed = false → p.st = .waitStart →
    c.int16DeclaredPlen = .four →
    ∃ q : ParserState, q.st = .waitChecksum ∧ q.cnt = 8 ∧ q.plen = 4 ∧
      rxAll c (encodeInt16 c op v) p = .ok (List.replicate 8 .none, q)

/-- R179(c): a frame whose checksum bytes do not match is dropped with one checksum error and changes nothing about how the
rest of the stream is decoded. The premise on `overflowed` is R233 (log entry 5). -/
def Obligations.ChecksumMismatchIsIsolated : Prop :=
  ∀ (c : Config) (p q : ParserState) (wf : BitVec 1) (rsv : BitVec 5) (payload rest : List Byte) (ck : Half)
    (es : List Event),
    c.legal → p.overflowed = false → p.st = .waitStart → payload.length ≤ 1023 →
    let frame : List Byte := 0xAA :: (bytesLe16 (packFlags payload.length rsv wf) ++ payload)
    ck ≠ crc16 frame → rxChunk c rest .reset = .ok (es, q) →
    ∃ q' : ParserState, q'.agree q ∧
      rxChunk c (wireBytes wf rsv payload ck ++ rest) p = .ok (.checksumErr ck (crc16 frame) :: es, q')

/-- R21, R52 and R240: no rule reads `buf` at or above `cnt`. Two ParserStates that agree on the registers and on the bytes
below `cnt` answer every byte alike and still agree afterwards, in every state and configuration. -/
def Obligations.LeftoverBytesAreInvisible : Prop :=
  ∀ (c : Config) (p q : ParserState) (b : Byte), p.agree q →
    match rxByte c b p, rxByte c b q with
    | .ok (e, p'), .ok (e', q') => e = e' ∧ p'.agree q'
    | .error f, .error g => f = g
    | _, _ => False

/-- R175: `EV_FRAMING_ERR` is never answered, in any state and configuration: not by a `DEC.RX`, and in no event list of a
chunk, a received frame or message (log entry 11) or a poll. -/
def Obligations.FramingErrorCannotOccur : Prop :=
  (∀ flags : Half, ¬ 1023 < (flagsPlenRaw flags).toNat) ∧
  ∀ (s t : State), ((∃ i, exec i s = .next t) ∨ serveCall .poll s = .next t) → ∀ n : Half,
    t.result ≠ .event (.framingErr n) ∧
    ∀ es : List Event, t.result = .events es ∨ t.result = .handed es → Event.framingErr n ∉ es

/-- R53 and R233: the guarded append. With `cnt ≥ BUF_CAP` it is `EV_OVERFLOW`, answered by the `DEC.RX` that calls it with
nothing stored, and recorded until `DEC.RESET` (log entry 5); otherwise it stores at `cnt`, counts, and leaves every other
cell and register. -/
def Obligations.AppendIsGuarded : Prop :=
  (∀ (c : Config) (p : ParserState) (b : Byte), c.bufCap ≤ p.cnt.toNat → p.append c b = .error .overflow) ∧
  (∀ (c : Config) (p : ParserState) (b : Byte), p.cnt.toNat < c.bufCap →
    ∃ q : ParserState, p.append c b = .ok q ∧ q.cnt = p.cnt + 1 ∧ q.buf.cell? p.cnt.toNat = some b ∧
      (∀ a, a ≠ p.cnt.toNat → q.buf.cell? a = p.buf.cell? a) ∧ q.st = p.st ∧ q.plen = p.plen ∧ q.wflag = p.wflag ∧
      q.overflowed = p.overflowed) ∧
  (∀ (s : State) (b : Byte), s.parser.overflowed = false → s.parser.st ≠ .waitStart → s.cfg.bufCap ≤ s.parser.cnt.toNat →
    exec (.decRx b) s = .next { s with parser := { s.parser with overflowed := true }, result := .event .overflow }) ∧
  (∀ s : State, s.parser.overflowed = false → s.parser.st = .waitStart → s.cfg.bufCap = 0 →
    exec (.decRx 0xAA) s =
      .next { s with parser := { s.parser with cnt := 0, overflowed := true }, result := .event .overflow }) ∧
  Event.overflow.code = 4

/-- R233 and D20 as log entry 5 reads them: once `EV_OVERFLOW` has been raised, a byte given to the decoder is a fault; every
run of operations that completes without a `DEC.RESET` leaves ParserState, overflow included, exactly as it is; and
`DEC.RESET` clears it. -/
def Obligations.OverflowLastsUntilReset : Prop :=
  (∀ (s : State) (b : Byte) (bytes : List Byte), s.parser.overflowed = true →
    exec (.decRx b) s = .fault .bufferOverflow ∧ exec (.decRxn (b :: bytes)) s = .fault .bufferOverflow) ∧
  (∀ (ops : List Instr) (s t : State) (rs : List Result), s.parser.overflowed = true → Instr.decReset ∉ ops →
    runOps ops s = some (rs, t) → t.parser = s.parser) ∧
  (∀ s : State, ∃ t, exec .decReset s = .next t ∧ t.parser.overflowed = false) ∧
  Fault.bufferOverflow.code = Event.overflow.code

/-- R160, R161 and R168: in every state that satisfies R26 the decoder takes any byte, any chunk and any received frame, and
what it leaves satisfies R26 again; only ParserState and the answer change. That a received frame, a format of the table,
acts as a chunk given to the decoder is the model's (log entry 11, DESIGN CHOICE). -/
def Obligations.DecoderNeverRefusesBytes : Prop :=
  ∀ s : State, s.Inv →
    (∀ b : Byte, ∃ (e : Event) (p : ParserState), p.Inv s.cfg ∧
      exec (.decRx b) s = .next { s with parser := p, result := .event e }) ∧
    (∀ bytes : List Byte, ∃ (es : List Event) (p : ParserState), p.Inv s.cfg ∧
      exec (.decRxn bytes) s = .next { s with parser := p, result := .events es }) ∧
    ∀ (wf : BitVec 1) (rsv : BitVec 5) (payload : List Byte) (ck : Half), ∃ (es : List Event) (p : ParserState),
      p.Inv s.cfg ∧ exec (.frameRx wf rsv payload ck) s = .next { s with parser := p, result := .events es }

/-- R34 and R53, the frame of `DEC.RX` in memory: the one cell it may store to is index 0 from `WAIT_START` and index `cnt`
otherwise; every other cell reads as before. -/
def Obligations.DecRxStoresAtOneIndex : Prop :=
  ∀ (s t : State) (b : Byte), exec (.decRx b) s = .next t →
    (∀ a, a ≠ (if s.parser.st = .waitStart then 0 else s.parser.cnt.toNat) →
      t.parser.buf.cell? a = s.parser.buf.cell? a) ∧
    (s.parser.st = .waitStart → b ≠ 0xAA → t.parser = s.parser)

/-- R176: in every state that satisfies R26, no operation stores above index 1027. -/
def Obligations.StoresStayBelowFrameBound : Prop :=
  ∀ (i : Instr) (s t : State), s.Inv → exec i s = .next t →
    ∀ a, 1028 ≤ a → t.parser.buf.cell? a = s.parser.buf.cell? a

/-- R61: the two directions are independent over whole runs of the thirteen operations: dropping the encoder and checksum
operations changes no answer of a decoder operation and not the final ParserState; dropping the decoder operations changes no
answer of the others, nor `crc`, nor what was sent. -/
def Obligations.DirectionsAreIndependent : Prop :=
  ∀ (ops : List Instr) (s t : State) (rs : List Result),
    (∀ i ∈ ops, ∃ k, i.sel = some k ∧ k.toNat ≤ 0xC) → runOps ops s = some (rs, t) →
    (∃ t', runOps (ops.filter isDecoderOp) s =
        some (((ops.zip rs).filter fun x => isDecoderOp x.1).map Prod.snd, t') ∧ t'.parser = t.parser) ∧
    ∃ t', runOps (ops.filter isEncoderOrChecksumOp) s =
        some (((ops.zip rs).filter fun x => isEncoderOrChecksumOp x.1).map Prod.snd, t') ∧
      t'.crc = t.crc ∧ t'.tx = t.tx

/-- R34, R27 and R28: which of the thirteen operations writes which state. Only the decoder's write ParserState; only
`CRC.INIT` and `CRC.STEP` write `crc`; only the encoder's send; none touches anything else. -/
def Obligations.OperationsWriteOnlyTheirState : Prop :=
  ∀ (i : Instr) (s t : State) (k : BitVec 4), i.sel = some k → exec i s = .next t →
    (isDecoderOp i = false → t.parser = s.parser) ∧ (2 ≤ k.toNat → t.crc = s.crc) ∧
    (k.toNat < 4 ∨ 9 < k.toNat → t.tx = s.tx) ∧
    t.cfg = s.cfg ∧ t.linkOpen = s.linkOpen ∧ t.rx = s.rx ∧ t.pending = s.pending ∧ t.reports = s.reports ∧
    t.interpRefused = s.interpRefused ∧ t.inputs = s.inputs

/-! ### Reset and the invariants -/

/-- R33 and R260: the state after reset; `crc` is 0, the zeros are the spec's decision D9, and no overflow is recorded
(R233). That no index of `buf` is written and that a read of it answers a free value of the index alone is the model's form
of the draw of R52 (log entry 4, DESIGN CHOICE). -/
def Obligations.ResetValuesAreTheSpecs : Prop :=
  State.reset.parser.st = .waitStart ∧ State.reset.parser.cnt = 0 ∧ State.reset.parser.plen = 0 ∧
  State.reset.parser.wflag = 0 ∧ State.reset.parser.overflowed = false ∧ State.reset.crc = 0 ∧
  (∀ i, State.reset.parser.byteAt i = Config.unspecifiedByte i ∧ State.reset.parser.buf.cell? i = none) ∧
  State.reset.cfg.bufCap = 1028 ∧ State.reset.cfg.int16DeclaredPlen = .three

/-- The state after reset satisfies R26. -/
def Obligations.ResetSatisfiesInvariant : Prop := State.reset.Inv

/-- R26, R20, R21 and R30: the invariants I1 to I4, the canonical buffer and the legal configuration survive every step, from
every state that has them. -/
def Obligations.EveryStepKeepsInvariant : Prop :=
  ∀ s t : State, s.Inv → step s = .next t → t.Inv ∧ t.cfg = s.cfg

/-- R176 and R233: from a state that satisfies R26 no step faults and none records an overflow: the buffer guard never fires.
-/
def Obligations.NoStepOverflowsBuffer : Prop :=
  ∀ s : State, s.Inv → (∀ f, step s ≠ .fault f) ∧ ∀ t, step s = .next t → t.parser.overflowed = false

/-! ### The wire formats -/

/-- R80, R83, R86, R88 and R89: a received frame from `WAIT_START` gives exactly one event, with its payload length and write
flag whatever the reserved bits are: the frame if the checksum covers all bytes before it, else the checksum error. Its bytes
stand in `buf` from index 0, every other cell as before. That the frame row acts by feeding the decoder is the model's (log
entry 11, DESIGN CHOICE); the premise on `overflowed` is R233 (log entry 5). -/
def Obligations.ReceivedFrameGivesOneEvent : Prop :=
  ∀ (s : State) (wf : BitVec 1) (rsv : BitVec 5) (payload : List Byte) (ck : Half),
    s.cfg.legal → s.parser.overflowed = false → s.parser.st = .waitStart → payload.length ≤ 1023 →
    let frame : List Byte := 0xAA :: (bytesLe16 (packFlags payload.length rsv wf) ++ payload)
    ∃ buf : Memory, (∀ a, buf.cell? a = (frame ++ bytesLe16 ck)[a]?.or (s.parser.buf.cell? a)) ∧
      exec (.frameRx wf rsv payload ck) s =
      .next { s with
        parser := { st := .waitStart, cnt := 0, plen := 0, wflag := 0, buf := buf }
        result := .events [if ck = crc16 frame then .frame frame (BitVec.ofNat 10 payload.length) wf
          else .checksumErr ck (crc16 frame)] }

/-- R201 and R213: the product-name message from `WAIT_START`. With the right checksum the identity is reported and nothing
is queued; with a wrong one a warning is reported. A name of printable bytes is that exact text, untrimmed (log entry 9,
DESIGN CHOICE). That the message row feeds the decoder is log entry 11, and that its events go on to the interpreter in the
same operation, which leaves them as its answer, is log entry 8 (both DESIGN CHOICE); the premise on `overflowed` is R233
(log entry 5). From the other states of the decoder PollFeedsDecoderAndHandsOver says what the row does. -/
def Obligations.ProductNameIsReported : Prop :=
  (∀ (s : State) (wf : BitVec 1) (rsv : BitVec 5) (text : List Byte) (ck : Half),
    s.cfg.legal → s.parser.overflowed = false → s.parser.st = .waitStart → text.length = 16 →
    let frame : List Byte := 0xAA :: (bytesLe16 (packFlags 17 rsv wf) ++ 0x00 :: text)
    ∃ buf : Memory, (∀ a, buf.cell? a = (frame ++ bytesLe16 ck)[a]?.or (s.parser.buf.cell? a)) ∧
      exec (.msgProductName wf rsv text ck) s =
      .next { s with
        parser := { st := .waitStart, cnt := 0, plen := 0, wflag := 0, buf := buf }
        result := .handed [if ck = crc16 frame then .frame frame 17 wf else .checksumErr ck (crc16 frame)]
        reports := s.reports ++
          [if ck = crc16 frame then .identity (decodeText text) else .checksumWarning ck (crc16 frame)] }) ∧
  ∀ text : List Byte, (∀ b ∈ text, 0x20 ≤ b.toNat ∧ b.toNat ≤ 0x7E) → decodeText text = text.map BitVec.toNat

/-- R202, R204, R206 and R213: the distance-sample message from `WAIT_START`. With the right checksum one sample is appended
to the queue, built from the little-endian fields, the angle signed in two's complement (log entry 14, PRESUMED); with a
wrong one a warning is reported and nothing queued. The floats are free values (log entry 9). That the message row feeds the
decoder is log entry 11, and that its events go on to the interpreter in the same operation, which leaves them as its answer,
is log entry 8 (both DESIGN CHOICE); the premise on `overflowed` is R233 (log entry 5). From the other states of the decoder
PollFeedsDecoderAndHandsOver says what the row does. -/
def Obligations.DistanceSampleIsQueued : Prop :=
  (∀ (s : State) (wf : BitVec 1) (rsv : BitVec 5) (first last angle : Half) (extra : List Byte) (ck : Half),
    s.cfg.legal → s.parser.overflowed = false → s.parser.st = .waitStart → extra.length ≤ 1016 →
    let payload : List Byte :=
      0x2C :: lo8 first :: hi8 first :: lo8 last :: hi8 last :: lo8 angle :: hi8 angle :: extra
    let frame : List Byte := 0xAA :: (bytesLe16 (packFlags payload.length rsv wf) ++ payload)
    ∃ buf : Memory, (∀ a, buf.cell? a = (frame ++ bytesLe16 ck)[a]?.or (s.parser.buf.cell? a)) ∧
      exec (.msgDistanceSample wf rsv first last angle extra ck) s =
      .next { s with
        parser := { st := .waitStart, cnt := 0, plen := 0, wflag := 0, buf := buf }
        result := .handed [if ck = crc16 frame then .frame frame (BitVec.ofNat 10 payload.length) wf
          else .checksumErr ck (crc16 frame)]
        pending := if ck = crc16 frame then s.pending ++ [distanceSample first last angle] else s.pending
        reports := if ck = crc16 frame then s.reports else s.reports ++ [.checksumWarning ck (crc16 frame)] }) ∧
  ∀ first last angle : Half,
    (distanceSample first last angle).firstDistanceMeters = Config.floatDiv100 (Config.floatOfInt first.toNat) ∧
    (distanceSample first last angle).lastDistanceMeters = Config.floatDiv100 (Config.floatOfInt last.toNat) ∧
    (distanceSample first last angle).angleDegrees = Config.floatDiv100 (Config.floatOfInt angle.toInt) ∧
    (distanceSample first last angle).position.y = Config.floatOfInt 0 ∧
    (distanceSample first last angle).position.x =
      Config.floatMul
        (Config.floatSin (Config.floatRadians (Config.floatDiv100 (Config.floatOfInt angle.toInt))))
        (Config.floatDiv100 (Config.floatOfInt first.toNat)) ∧
    (distanceSample first last angle).position.z =
      Config.floatMul
        (Config.floatCos (Config.floatRadians (Config.floatDiv100 (Config.floatOfInt angle.toInt))))
        (Config.floatDiv100 (Config.floatOfInt first.toNat))

/-- R96 and R98: the scan-enable message is the frame `AA 81 00 60 01 4D DC`, the same as a Write-int8 of 1 to opcode 96.
That this row of the table is an operation that sends is the model's (log entry 11, DESIGN CHOICE), and that the frame goes
to an open transport in the same step is log entry 15 (DEDUCED). -/
def Obligations.ScanEnableIsAWriteInt8 : Prop :=
  ∀ s : State,
    exec .msgScanEnable s =
      .next { s with
        tx := if s.linkOpen then s.tx ++ [[0xAA, 0x81, 0x00, 0x60, 0x01, 0x4D, 0xDC]] else s.tx
        result := .bytes [0xAA, 0x81, 0x00, 0x60, 0x01, 0x4D, 0xDC] } ∧
    exec .msgScanEnable s = exec (.encWr8 96 1) s ∧ serveCall .sendScanEnable s = exec .msgScanEnable s

/-- R94: `sel` 0xD to 0xF select nothing and are refused, each by its own code. -/
def Obligations.UnusedSelectCodesAreRefused : Prop :=
  ∀ s : State, exec .selD s = .refused (.selectsNothing 0xD) ∧ exec .selE s = .refused (.selectsNothing 0xE) ∧
    exec .selF s = .refused (.selectsNothing 0xF)

/-! ### Decoding, encoding, and the step -/

/-- Decoding takes back every well-formed operation from its encoding, whatever follows it, operands included. The byte
layout of the command port is the model's (log entry 1); the wire formats are R80, R81 and R96. -/
def Obligations.DecodeTakesBackEncode : Prop :=
  ∀ (i : Instr) (rest : List Byte), i.wellFormed = true → decode (encode i ++ rest) = .ok (i, rest)

/-- R80, R81 and R96: bytes on the wire have one meaning. What decodes is well formed, and its encoding is the bytes read.
That bytes beginning with `0xAA` are a wire frame at the same port as the operations, and that a frame decodes to its most
specific row, is the model's (log entry 1, DESIGN CHOICE). -/
def Obligations.WireBytesHaveOneMeaning : Prop :=
  ∀ (bytes tail : List Byte) (i : Instr), decode (0xAA :: bytes) = .ok (i, tail) →
    i.sel = none ∧ i.wellFormed = true ∧ encode i ++ tail = 0xAA :: bytes

/-- R94: at the command port the low four bits of the select byte choose the operation (that the upper four do not count is
the model's, log entry 1), and every other byte than `0xAA` is a select byte. -/
def Obligations.SelectBitsChooseOperation : Prop :=
  ∀ (b : Byte) (bytes tail : List Byte) (i : Instr), b ≠ 0xAA → decode (b :: bytes) = .ok (i, tail) →
    i.sel = some (b.extractLsb' 0 4)

/-- R94, R80 and R96: words decode to the operations they stand for. The select codes, the field values and the wire frames
are the opcode table's; the bytes of the operands at the command port are laid out as the model lays them (log entry 1,
DESIGN CHOICE). -/
def Obligations.TableWordsDecode : Prop :=
  decode [0x02] = .ok (.crcRead, []) ∧
  decode [0x07, 0x05, 0x34, 0x12] = .ok (.encWr16 0x05 0x1234, []) ∧
  decode [0x0A, 0xAA] = .ok (.decRx 0xAA, []) ∧
  decode [0xAA, 0x40, 0x00, 0x00, 0x70, 0x9F] = .ok (.frameRx 0 0 [0x00] 0x9F70, []) ∧
  decode [0xAA, 0xC0, 0x01, 0x2C, 0xF4, 0x01, 0xF4, 0x01, 0x00, 0x00, 0x1D, 0x8D] =
    .ok (.msgDistanceSample 0 0 500 500 0 [] 0x8D1D, []) ∧
  decode [0xAA, 0x81, 0x00, 0x60, 0x01, 0x4D, 0xDC] = .ok (.msgScanEnable, []) ∧
  decodeTableWord 8 0x0F = some .selF

/-- A step whose next input is bytes that decode to an operation is `exec` of that operation, the input taken off the list,
and then the hand-over of the events it answered (R200, R268; log entry 8); an operation that answers no events is `exec`
alone. Bytes that are no operation are refused by name. The input list is the model's own (log entry 2, DESIGN CHOICE). -/
def Obligations.StepRunsDecodedOperation : Prop :=
  (∀ (s : State) (bytes tail : List Byte) (rest : List Input) (i : Instr),
    s.inputs = .command bytes :: rest → decode bytes = .ok (i, tail) →
    step s = thenHandOver (exec i { s with inputs := rest }) ∧
    (∀ t, exec i { s with inputs := rest } = .next t → t.result.eventList = [] → step s = .next t) ∧
    (∀ f, exec i { s with inputs := rest } = .fault f → step s = .fault f) ∧
    ∀ r, exec i { s with inputs := rest } = .refused r → step s = .refused r) ∧
  (∀ (s : State) (bytes : List Byte) (rest : List Input) (e : DecodeError),
    s.inputs = .command bytes :: rest → decode bytes = .error e → step s = .refused (.undecoded e)) ∧
  ∀ (s : State) (nbits w : Nat) (i : Instr), decodeTableWord nbits w = some i →
    step (s.withFetchWord nbits w) = thenHandOver (exec i s)

/-- R237, R266 and R244: nothing happens on its own. With no input the machine stays as it is. The input list, and a step
that leaves the state as it is when the list is empty, are the model's (log entry 2, DESIGN CHOICE). -/
def Obligations.NothingHappensWithoutInput : Prop :=
  ∀ s : State, s.inputs = [] → step s = .next s

/-! ### The software around the block -/

/-- R200 to R203 and R205: what the interpreter makes of a frame, by opcode and length; an opcode-44 frame without its six
bytes is refused (R202; log entry 8, DEDUCED). The sample's floats and an unprintable text are free values, a printable one
is untrimmed (log entry 9, DESIGN CHOICE). -/
def Obligations.InterpreterActsByOpcode : Prop :=
  (∀ frame : List Byte, interpret frame 0 = .ok .unknown) ∧
  ∀ (h0 h1 h2 op : Byte) (data : List Byte),
    (op = 0 → data.length = 16 →
      interpret (h0 :: h1 :: h2 :: op :: data) (1 + data.length) = .ok (.identity (decodeText data))) ∧
    (op = 0 → data.length ≠ 16 → interpret (h0 :: h1 :: h2 :: op :: data) (1 + data.length) = .ok .unknown) ∧
    (op = 44 → ∀ f0 f1 l0 l1 a0 a1 extra, data = f0 :: f1 :: l0 :: l1 :: a0 :: a1 :: extra →
      interpret (h0 :: h1 :: h2 :: op :: data) (1 + data.length) =
        .ok (.distanceSample (distanceSample (le16 f0 f1) (le16 l0 l1) (le16 a0 a1)))) ∧
    (op = 44 → data.length < 6 →
      interpret (h0 :: h1 :: h2 :: op :: data) (1 + data.length) = .error (.interpreterShort data.length)) ∧
    (op ≠ 0 → op ≠ 44 → interpret (h0 :: h1 :: h2 :: op :: data) (1 + data.length) = .ok .unknown)

/-- R200, R202 to R204 and R268: the events of an operation reach the interpreter in the operation's own step, each once and
in every state, also after a frame that the interpreter refused. A frame becomes one logged identity, one queued sample or
nothing; a checksum error one warning; the rest nothing. That a refusal of the interpreter (R202) is recorded, the first one,
and the block goes on then, and that a poll or a message row has handed its own events over already, is the model's (log
entry 8, DESIGN CHOICE). -/
def Obligations.EventsReachInterpreterInTheirStep : Prop :=
  (∀ (s t : State) (bytes tail : List Byte) (rest : List Input) (i : Instr),
    s.inputs = .command bytes :: rest → decode bytes = .ok (i, tail) → exec i { s with inputs := rest } = .next t →
    (∀ e, t.result = .event e → step s = .next (handOver e t)) ∧
    (∀ es, t.result = .events es → step s = .next (handOverAll es t)) ∧
    ∀ es, t.result = .handed es → step s = .next t) ∧
  (∀ s : State, handOverAll [] s = s) ∧
  (∀ (e : Event) (es : List Event) (s : State), handOverAll (e :: es) s = handOverAll es (handOver e s)) ∧
  (∀ (bytes : List Byte) (n : BitVec 10) (w : BitVec 1) (s : State),
    (∀ text, interpret bytes n.toNat = .ok (.identity text) →
      handOver (.frame bytes n w) s = { s with reports := s.reports ++ [.identity text] }) ∧
    (∀ d, interpret bytes n.toNat = .ok (.distanceSample d) →
      handOver (.frame bytes n w) s = { s with pending := s.pending ++ [d] }) ∧
    (interpret bytes n.toNat = .ok .unknown → handOver (.frame bytes n w) s = s) ∧
    ∀ r, interpret bytes n.toNat = .error r →
      handOver (.frame bytes n w) s = { s with interpRefused := s.interpRefused.or (some r) }) ∧
  (∀ (a b : Half) (s : State),
    handOver (.checksumErr a b) s = { s with reports := s.reports ++ [.checksumWarning a b] }) ∧
  ∀ (n : Half) (s : State), handOver .none s = s ∧ handOver (.framingErr n) s = s ∧ handOver .overflow s = s

/-- R208: a drain takes the whole queue and leaves an empty one, in one step; a second drain takes nothing. Where the
interpreter has refused a frame of a raw operation (R202), a drain is refused for that frame (log entry 8, DESIGN CHOICE). -/
def Obligations.DrainTakesWholeQueue : Prop :=
  (∀ s : State, s.interpRefused = none →
    serveCall .drainDistanceResults s = .next { s with pending := [], result := .samples s.pending } ∧
    serveCall .drainDistanceResults { s with pending := [], result := .samples s.pending } =
      .next { s with pending := [], result := .samples [] }) ∧
  ∀ (s : State) (r : Refusal), s.interpRefused = some r → serveCall .drainDistanceResults s = .refused r

/-- R98 and R212: the calls that send are the encoder operations of R98's expansions, the product request by decision D13 and
scan disable by decision D14; `sendWritePosition` is one write frame that the spec does not give, a free value (log entry 10,
DESIGN CHOICE). A step serves a call with the input taken off the list (log entry 2, DESIGN CHOICE). -/
def Obligations.HostCallsSendTheirFrames : Prop :=
  (∀ s : State,
    serveCall .sendGetProduct s = exec (.encGet 0) s ∧
    (∀ op v, serveCall (.sendWriteInt8 op v) s = exec (.encWr8 op v) s) ∧
    (∀ op v, serveCall (.sendWriteInt16 op v) s = exec (.encWr16 op v) s) ∧
    (∀ op v, serveCall (.sendWriteInt32 op v) s = exec (.encWr32 op v) s) ∧
    (∀ op p, serveCall (.sendWriteFloat op p) s = exec (.encWrf op p) s) ∧
    serveCall .sendScanEnable s = exec (.encWr8 96 1) s ∧ serveCall .sendScanDisable s = exec (.encWr8 96 0) s ∧
    ∀ degrees,
      let frame := writeFrame s.cfg (Config.positionWrite degrees)
      serveCall (.sendWritePosition degrees) s =
        .next { s with tx := if s.linkOpen then s.tx ++ [frame] else s.tx, result := .bytes frame }) ∧
  ∀ (s : State) (c : HostCall) (rest : List Input), s.inputs = .call c :: rest →
    step s = serveCall c { s with inputs := rest }

/-- R211 and R214: bytes that arrive on an open link are kept, all of them, in order, whatever they are and however they are
cut; nothing else changes. The input list is the model's (log entry 2, DESIGN CHOICE); that the last answer stays is log
entry 15 (DEDUCED). -/
def Obligations.ArrivingBytesAreKeptInOrder : Prop :=
  ∀ s : State, s.linkOpen = true →
    (∀ bytes, serve (.arrive bytes) s = .next { s with rx := s.rx ++ bytes }) ∧
    (∀ xs ys, serve (.arrive ys) { s with rx := s.rx ++ xs } = serve (.arrive (xs ++ ys)) s) ∧
    ∀ bytes rest, s.inputs = .arrive bytes :: rest → step s = .next { s with inputs := rest, rx := s.rx ++ bytes }

/-- R213 and R98, from every state: a poll on an open link is `DEC.RXN` of all the received bytes, which it takes away, and
then each event handed over in order, as EventsReachInterpreterInTheirStep says what that does; the first of its frames that
the interpreter refuses makes it a refusal (R202). The two received message rows are the same on their own bytes (log entry
11). That the events stay as the answer is the model's (log entry 8; both DESIGN CHOICE). -/
def Obligations.PollFeedsDecoderAndHandsOver : Prop :=
  (∀ s : State, s.linkOpen = true →
    (∀ f, exec (.decRxn s.rx) s = .fault f → serveCall .poll s = .fault f) ∧
    ∀ (es : List Event) (p : ParserState), exec (.decRxn s.rx) s = .next { s with parser := p, result := .events es } →
      (es.findSome? Event.refusal? = none →
        serveCall .poll s = .next (handOverAll es { s with rx := [], parser := p, result := .handed es })) ∧
      ∀ r, es.findSome? Event.refusal? = some r → serveCall .poll s = .refused r) ∧
  (∀ (i : Instr) (bytes : List Byte),
    ((∃ wf rsv text ck, i = .msgProductName wf rsv text ck ∧ bytes = wireBytes wf rsv (0x00 :: text) ck) ∨
      ∃ wf rsv first last angle extra ck, i = .msgDistanceSample wf rsv first last angle extra ck ∧
        bytes = wireBytes wf rsv (0x2C :: (bytesLe16 first ++ bytesLe16 last ++ bytesLe16 angle ++ extra)) ck) →
    ∀ s : State,
      (∀ f, exec (.decRxn bytes) s = .fault f → exec i s = .fault f) ∧
      ∀ (es : List Event) (p : ParserState), exec (.decRxn bytes) s = .next { s with parser := p, result := .events es } →
        (es.findSome? Event.refusal? = none →
          exec i s = .next (handOverAll es { s with parser := p, result := .handed es })) ∧
        ∀ r, es.findSome? Event.refusal? = some r → exec i s = .refused r) ∧
  (∀ (bytes : List Byte) (n : BitVec 10) (w : BitVec 1) (r : Refusal),
    (Event.frame bytes n w).refusal? = some r ↔ interpret bytes n.toNat = .error r) ∧
  ∀ e : Event, (∀ bytes n w, e ≠ .frame bytes n w) → e.refusal? = none

/-- R213, R200, R202 and R206: a poll that finds any number of whole distance-sample frames queues one sample for each, in
the order they arrived, and leaves nothing unread. What a poll does with any other bytes is PollFeedsDecoderAndHandsOver. The
premise on `overflowed` is R233 (log entry 5); the floats are free values (log entry 9) and the angle is two's complement
(log entry 14, PRESUMED). -/
def Obligations.PollQueuesEachSampleInOrder : Prop :=
  ∀ (s : State) (ms : List (Half × Half × Half)), s.cfg.legal → s.linkOpen = true →
    s.parser.overflowed = false → s.parser.st = .waitStart →
    s.rx = (ms.map fun m => encodeFrame 44 0 (bytesLe16 m.1 ++ bytesLe16 m.2.1 ++ bytesLe16 m.2.2)).flatten →
    ∃ t : State, serveCall .poll s = .next t ∧
      t.pending = s.pending ++ ms.map (fun m => distanceSample m.1 m.2.1 m.2.2) ∧
      t.rx = [] ∧ t.parser.st = .waitStart ∧ t.interpRefused = s.interpRefused ∧ t.reports = s.reports ∧
      t.crc = s.crc ∧ t.tx = s.tx

/-- R235 and R211: while the transport is not open a poll gives the decoder nothing, no encoder result and no send of the
layer above is written, and no byte arrives. The last clause is the model's, and so is that a `connect` whose `open` fails
leaves the link not open (log entry 7, DESIGN CHOICE), and that the poll answers nothing (log entry 8, DESIGN CHOICE). -/
def Obligations.ClosedLinkCarriesNothing : Prop :=
  ∀ s : State, s.linkOpen = false →
    serveCall .poll s = .next { s with result := .none } ∧
    (∀ (i : Instr) (t : State), exec i s = .next t → t.tx = s.tx) ∧
    (∀ (c : HostCall) (t : State), (∀ identifier baudRate, c ≠ .connect identifier baudRate true) →
      serveCall c s = .next t → t.tx = s.tx ∧ t.linkOpen = false) ∧
    ∀ bytes : List Byte, serve (.arrive bytes) s = .next s

/-- R209, R210 and R98: a connection whose `open` succeeds resets the decoder (decision D15; a recorded overflow with it,
R233 as log entry 5 reads it, DEDUCED) and sends the ten session-start commands in the order of the table. The bytes of the
second and third are decisions D14 and D13, those of the tenth the source's; the others are write frames of one of the four
shapes whose opcode, shape and value are free values (log entry 10, DESIGN CHOICE). One whose `open` fails is reported once
and sends nothing (R211). That a failed `open` closes the link, and that bytes received before the call stay in either case,
is the model's (log entry 7, DESIGN CHOICE), and so is what either leaves as its answer (log entry 15, DESIGN CHOICE). -/
def Obligations.ConnectSendsSessionStart : Prop :=
  (∀ (s : State) (identifier : Text) (baudRate : Nat),
    serveCall (.connect identifier baudRate true) s =
      .next { s with
        linkOpen := true
        parser := { st := .waitStart, cnt := 0, plen := 0, wflag := 0, buf := s.parser.buf, overflowed := false }
        tx := s.tx ++ catalogOrder.map (catalogFrame s.cfg)
        result := .bytes (catalogFrame s.cfg .enableScanning) } ∧
    serveCall (.connect identifier baudRate false) s =
      .next { s with linkOpen := false, reports := s.reports ++ [.connectionError], result := .none }) ∧
  catalogOrder =
    [.disableStreaming, .disableScanning, .requestProduct, .setLowAngle, .setHighAngle, .setUpdateRate, .setCycleSpeed,
      .setDistanceInfo, .enableStreaming, .enableScanning] ∧
  ∀ c : Config,
    catalogFrame c .disableScanning = [0xAA, 0x81, 0x00, 0x60, 0x00, 0x6C, 0xCC] ∧
    catalogFrame c .requestProduct = [0xAA, 0x40, 0x00, 0x00, 0x70, 0x9F] ∧
    catalogFrame c .enableScanning = [0xAA, 0x81, 0x00, 0x60, 0x01, 0x4D, 0xDC] ∧
    (∀ step, step ≠ .disableScanning → step ≠ .requestProduct → step ≠ .enableScanning →
      catalogFrame c step = writeFrame c (Config.catalogWrite step)) ∧
    ∀ (op : Byte) (v : Word),
      writeFrame c ⟨.int8, op, v⟩ = encodeFrame op 1 [v.extractLsb' 0 8] ∧
      writeFrame c ⟨.int16, op, v⟩ = encodeInt16 c op (v.extractLsb' 0 16) ∧
      writeFrame c ⟨.int32, op, v⟩ = encodeFrame op 1 (bytesLe32 v) ∧
      writeFrame c ⟨.float, op, v⟩ = encodeFrame op 1 (bytesLe32 v)

/-- R230 and R24: the codes of the events and the numbers of the four states (the spec's own, decisions D19 and D7). -/
def Obligations.EventCodesAndStateNumbers : Prop :=
  Event.none.code = 0 ∧ (∀ bytes n w, (Event.frame bytes n w).code = 1) ∧ (∀ r c, (Event.checksumErr r c).code = 2) ∧
  (∀ n, (Event.framingErr n).code = 3) ∧ Event.overflow.code = 4 ∧ (∀ n, (Refusal.encRefused n).code? = some 5) ∧
  DecState.waitStart.number = 0 ∧ DecState.waitFlags.number = 1 ∧ DecState.waitPayload.number = 2 ∧
  DecState.waitChecksum.number = 3
end

