-- ==== Sys2Proof/Machine/Written.lean ====
section
/-! DEFINITION. How an operation is written down (30_encoding.md R97): the mnemonic of R94 and its operands in the table's
order; bytes in decimal, signed values in decimal, a float pattern and the bytes of a sequence in hexadecimal. The notation
carries no behaviour (decision D12). The codes that select nothing and the wire formats have no written form. -/

namespace Sys2Proof.Machine

/-- One hexadecimal digit. -/
def hexDigit (n : Nat) : Char := Nat.digitChar n

/-- The hexadecimal digits of a number's low `digits` digits. -/
def hexDigits (digits n : Nat) : String :=
  String.ofList ((List.range digits).reverse.map fun k => (hexDigit ((n >>> (4 * k)) % 16)).toUpper)

/-- A byte sequence: hexadecimal bytes separated by spaces inside brackets. -/
def writtenBytes (bytes : List Byte) : String :=
  "[" ++ String.intercalate " " (bytes.map fun b => hexDigits 2 b.toNat) ++ "]"

/-- The mnemonic, then the operands separated by commas. -/
def writtenOp (mnemonic : String) (operands : List String) : String :=
  if operands.isEmpty then mnemonic else mnemonic ++ " " ++ String.intercalate ", " operands

/-- The written form of one of the thirteen operations. -/
def writtenForm : Instr → Option String
  | .crcInit => some (writtenOp "CRC.INIT" [])
  | .crcStep b => some (writtenOp "CRC.STEP" [toString b.toNat])
  | .crcRead => some (writtenOp "CRC.READ" [])
  | .crcBlock bytes => some (writtenOp "CRC.BLOCK" [writtenBytes bytes])
  | .encFrame op wf val => some (writtenOp "ENC.FRAME" [toString op.toNat, toString wf.toNat, writtenBytes val])
  | .encGet op => some (writtenOp "ENC.GET" [toString op.toNat])
  | .encWr8 op v => some (writtenOp "ENC.WR8" [toString op.toNat, toString v.toInt])
  | .encWr16 op v => some (writtenOp "ENC.WR16" [toString op.toNat, toString v.toInt])
  | .encWr32 op v => some (writtenOp "ENC.WR32" [toString op.toNat, toString v.toInt])
  | .encWrf op p => some (writtenOp "ENC.WRF" [toString op.toNat, "0x" ++ hexDigits 8 p.toNat])
  | .decRx b => some (writtenOp "DEC.RX" [toString b.toNat])
  | .decRxn bytes => some (writtenOp "DEC.RXN" [writtenBytes bytes])
  | .decReset => some (writtenOp "DEC.RESET" [])
  | .selD => none
  | .selE => none
  | .selF => none
  | .frameRx _ _ _ _ => none
  | .msgProductName _ _ _ _ => none
  | .msgDistanceSample _ _ _ _ _ _ _ => none
  | .msgScanEnable => none

end Sys2Proof.Machine
end

