-- ==== Sys2Proof/Tests/Slice0.lean ====
section
/-! SUPPORT. Tests. Expected bytes, checksums and decoder states are those of spec/95_test_vectors.md (K, E, X, I, S and P
numbers) and of the examples of the rules; encodings are written out from 30_encoding.md R80, R94 and R96. The witnesses at
the end show that the hypotheses of each statement can be met. -/

namespace Sys2Proof.Tests

open Sys2Proof.Machine

/-! ### Helpers -/

/-- Does the operation answer a next state with this property? -/
def runs (i : Instr) (s : State) (ok : State → Bool) : Bool :=
  match exec i s with
  | .next t => ok t
  | .fault _ => false
  | .refused _ => false

/-- Does the step answer a next state with this property? -/
def steps (s : State) (ok : State → Bool) : Bool :=
  match step s with
  | .next t => ok t
  | .fault _ => false
  | .refused _ => false

/-- The reset state after some received bytes. -/
def after (bytes : List Byte) : State :=
  match rxAll {} bytes .reset with
  | .ok (_, p) => { State.reset with parser := p }
  | .error _ => State.reset

/-- The reset state with the link open. -/
def linked : State := { State.reset with linkOpen := true }

/-- The registers of ParserState, as 95_test_vectors.md writes them: `(st, cnt, plen, wflag)`. -/
def regs (s : State) : DecState × Nat × Nat × Nat :=
  (s.parser.st, s.parser.cnt.toNat, s.parser.plen.toNat, s.parser.wflag.toNat)

/-- The reset state with room for one byte only, after a start byte (no legal configuration). -/
def cramped : State :=
  { State.reset with
    cfg := { bufCap := 1 }
    parser := { st := .waitFlags, cnt := 1, plen := 0, wflag := 0, buf := [(0, 0xAA)] } }

/-- S1's sixteen name bytes. -/
def sf45 : List Byte := [0x53, 0x46, 0x34, 0x35] ++ List.replicate 12 0x20

/-- What an outcome's refusal is, if it is one. -/
def refusal? (o : Host.Outcome State Fault Refusal) : Option Refusal :=
  match o with
  | .next _ => none
  | .fault _ => none
  | .refused r => some r

/-! ### WellFormed: one ill-formed term for each check -/

theorem test_wf_overlong_value : (Instr.encFrame 0 0 (List.replicate 1023 0)).wellFormed = false := by decide +kernel
theorem test_wf_overlong_payload : (Instr.frameRx 0 0 (List.replicate 1024 0) 0).wellFormed = false := by decide +kernel
theorem test_wf_frame_is_name : (Instr.frameRx 0 0 (0 :: List.replicate 16 0x20) 0).wellFormed = false := by decide
theorem test_wf_frame_is_sample : (Instr.frameRx 0 0 [44, 0, 0, 0, 0, 0, 0] 0).wellFormed = false := by decide
theorem test_wf_frame_is_scan_enable : (Instr.frameRx 1 0 [96, 1] 0xDC4D).wellFormed = false := by decide
theorem test_wf_short_name : (Instr.msgProductName 0 0 [0x53] 0).wellFormed = false := by decide
theorem test_wf_overlong_extra : (Instr.msgDistanceSample 0 0 0 0 0 (List.replicate 1017 0) 0).wellFormed = false := by
  decide +kernel

/-! ### Decoding: a word written out for every constructor (R94, R80, R96) -/

theorem test_decode_crcInit : decode [0x00] = .ok (.crcInit, []) := by decide
theorem test_decode_crcStep : decode [0x01, 0xAA] = .ok (.crcStep 0xAA, []) := by decide
theorem test_decode_crcRead : decode [0x02] = .ok (.crcRead, []) := by decide
theorem test_decode_crcBlock : decode [0x03, 1, 0xAA, 1, 0x81, 0] = .ok (.crcBlock [0xAA, 0x81], []) := by decide
theorem test_decode_encFrame : decode [0x04, 0x10, 1, 1, 0x01, 1, 0x02, 0] = .ok (.encFrame 0x10 1 [0x01, 0x02], []) := by
  decide
theorem test_decode_encGet : decode [0x05, 0x2C] = .ok (.encGet 44, []) := by decide
theorem test_decode_encWr8 : decode [0x06, 0x60, 0xFF] = .ok (.encWr8 96 (BitVec.ofInt 8 (-1)), []) := by decide
theorem test_decode_encWr16 : decode [0x07, 0x05, 0x34, 0x12] = .ok (.encWr16 5 0x1234, []) := by decide
theorem test_decode_encWr32 : decode [0x08, 0x07, 0x78, 0x56, 0x34, 0x12] = .ok (.encWr32 7 0x12345678, []) := by decide
theorem test_decode_encWrf : decode [0x09, 0x09, 0x00, 0x00, 0x36, 0xC2] = .ok (.encWrf 9 0xC2360000, []) := by decide
theorem test_decode_decRx : decode [0x0A, 0x55] = .ok (.decRx 0x55, []) := by decide
theorem test_decode_decRxn : decode [0x0B, 1, 0xAA, 1, 0x40, 0] = .ok (.decRxn [0xAA, 0x40], []) := by decide
theorem test_decode_decReset : decode [0x0C] = .ok (.decReset, []) := by decide
theorem test_decode_selD : decode [0x0D] = .ok (.selD, []) := by decide
theorem test_decode_selE : decode [0x0E] = .ok (.selE, []) := by decide
theorem test_decode_selF : decode [0x0F] = .ok (.selF, []) := by decide
/-- X8's bytes: all five reserved bits set, payload length 2, write flag 1. -/
theorem test_decode_frameRx :
    decode [0xAA, 0xBF, 0x00, 0x60, 0x01, 0xFE, 0x52] = .ok (.frameRx 1 0x1F [0x60, 0x01] 0x52FE, []) := by decide
/-- S1's corrected vector. -/
theorem test_decode_msgProductName :
    decode [0xAA, 0x40, 0x04, 0x00, 0x53, 0x46, 0x34, 0x35, 0x20, 0x20, 0x20, 0x20, 0x20, 0x20, 0x20, 0x20, 0x20, 0x20, 0x20,
        0x20, 0xD6, 0xDC] =
      .ok (.msgProductName 0 0 [0x53, 0x46, 0x34, 0x35, 0x20, 0x20, 0x20, 0x20, 0x20, 0x20, 0x20, 0x20, 0x20, 0x20, 0x20, 0x20]
        0xDCD6, []) := by decide
/-- I3's bytes: 1234, 1300, -4500. -/
theorem test_decode_msgDistanceSample :
    decode [0xAA, 0xC0, 0x01, 0x2C, 0xD2, 0x04, 0x14, 0x05, 0x6C, 0xEE, 0x2E, 0x1C] =
      .ok (.msgDistanceSample 0 0 1234 1300 (BitVec.ofInt 16 (-4500)) [] 0x1C2E, []) := by decide
theorem test_decode_msgScanEnable :
    decode [0xAA, 0x81, 0x00, 0x60, 0x01, 0x4D, 0xDC] = .ok (.msgScanEnable, []) := by decide

theorem test_decode_empty : decode [] = .error .truncated := by decide
theorem test_decode_truncated : decode [0x08, 0x07, 0x78] = .error .truncated := by decide
theorem test_decode_write_flag : decode [0x04, 0x10, 2, 0] = .error .badWriteFlag := by decide
theorem test_decode_sequence_mark : decode [0x0B, 2, 0] = .error .badSequenceMark := by decide

/-! ### Checksum engine (K vectors) -/

theorem test_crc_step_values : crcStep 0xFFFF 0x00 = 0xE1F0 ∧ crcStep 0x1234 0x56 = 0x3C40 ∧ crcStep 0 0x80 = 0x9188 := by
  decide
theorem test_crcInit : runs .crcInit { State.reset with crc := 0x1234 } (fun t => t.crc == 0) = true := by decide
theorem test_crcStep : runs (.crcStep 0x40) { State.reset with crc := 0x14A0 } (fun t => t.crc == 0xBA71) = true := by decide
theorem test_crcRead :
    runs .crcRead { State.reset with crc := 0x9F70 } (fun t => t.result == .checksum 0x9F70 && t.crc == 0x9F70) = true := by
  decide
/-- K8: the nine ASCII digits. -/
theorem test_crcBlock :
    runs (.crcBlock [0x31, 0x32, 0x33, 0x34, 0x35, 0x36, 0x37, 0x38, 0x39]) { State.reset with crc := 7 }
      (fun t => t.result == .checksum 0x31C3 && t.crc == 7) = true := by decide

/-! ### Frame encoder (E vectors) -/

/-- E12: the start-byte value as opcode and data; nothing is escaped. -/
theorem test_encFrame :
    runs (.encFrame 0xAA 1 [0xAA, 0xAA]) linked
      (fun t => t.tx == [[0xAA, 0xC1, 0x00, 0xAA, 0xAA, 0xAA, 0x8B, 0x62]]) = true := by decide
/-- E15. -/
theorem test_encFrame_refused :
    refusal? (exec (.encFrame 0x21 1 (List.replicate 1023 0)) State.reset) = some (.encRefused 1023) := by decide +kernel
/-- E2. -/
theorem test_encGet :
    runs (.encGet 44) State.reset (fun t => t.result == .bytes [0xAA, 0x40, 0x00, 0x2C, 0x9E, 0x7A]) = true := by decide
/-- E6. -/
theorem test_encWr8 :
    runs (.encWr8 96 (BitVec.ofInt 8 (-1))) State.reset
      (fun t => t.result == .bytes [0xAA, 0x81, 0x00, 0x60, 0xFF, 0x9C, 0xD2]) = true := by decide
/-- E7b. -/
theorem test_encWr16_three :
    runs (.encWr16 5 (BitVec.ofInt 16 (-2))) State.reset
      (fun t => t.result == .bytes [0xAA, 0xC1, 0x00, 0x05, 0xFE, 0xFF, 0x0D, 0x3B]) = true := by decide
/-- E8. -/
theorem test_encWr16_four :
    runs (.encWr16 5 0x1234) { State.reset with cfg := { int16DeclaredPlen := .four } }
      (fun t => t.result == .bytes [0xAA, 0x01, 0x01, 0x05, 0x34, 0x12, 0x1D, 0xAB]) = true := by decide
/-- E9. -/
theorem test_encWr32 :
    runs (.encWr32 7 0x12345678) State.reset
      (fun t => t.result == .bytes [0xAA, 0x41, 0x01, 0x07, 0x78, 0x56, 0x34, 0x12, 0x96, 0x80]) = true := by decide
/-- E10b. -/
theorem test_encWrf :
    runs (.encWrf 9 0xC2360000) State.reset
      (fun t => t.result == .bytes [0xAA, 0x41, 0x01, 0x09, 0x00, 0x00, 0x36, 0xC2, 0xF9, 0xC9]) = true := by decide

/-! ### Frame decoder (X vectors, programs) -/

/-- P1, last byte: the frame event, and the reset state. -/
theorem test_decRx_frame :
    runs (.decRx 0x9F) (after [0xAA, 0x40, 0x00, 0x00, 0x70])
      (fun t => t.result == .event (.frame [0xAA, 0x40, 0x00, 0x00] 1 0) && regs t == (.waitStart, 0, 0, 0)) = true := by
  decide
/-- X4: one bit of the high checksum byte flipped. -/
theorem test_decRx_checksum_error :
    runs (.decRx 0xDD) (after [0xAA, 0x81, 0x00, 0x60, 0x01, 0x4D])
      (fun t => t.result == .event (.checksumErr 0xDD4D 0xDC4D) && regs t == (.waitStart, 0, 0, 0)) = true := by decide
/-- X10, P4: a false start swallows a good frame. -/
theorem test_decRxn_false_start :
    runs (.decRxn [0xAA, 0xAA, 0x40, 0x00, 0x00, 0x70, 0x9F]) State.reset
      (fun t => t.result == .events [] && regs t == (.waitPayload, 7, 258, 0)) = true := by decide
/-- X6: a corrupted length field costs the next frame and not the one after. -/
theorem test_decRxn_recovers :
    runs (.decRxn [0xAA, 0xC1, 0x00, 0x60, 0x01, 0x4D, 0xDC, 0xAA, 0x40, 0x00, 0x00, 0x70, 0x9F, 0xAA, 0x40, 0x00, 0x00, 0x70,
        0x9F]) State.reset
      (fun t => t.result == .events [.checksumErr 0xAADC 0xCFF0, .frame [0xAA, 0x40, 0x00, 0x00] 1 0]) = true := by decide
/-- X7b: the zero-length frame with the write flag. -/
theorem test_zero_length_frame :
    runs (.decRxn [0xAA, 0x01, 0x00, 0x6C, 0x49]) State.reset
      (fun t => t.result == .events [.frame [0xAA, 0x01, 0x00] 0 1]) = true := by decide
/-- P8: `DEC.RESET` abandons the partial frame; `crc` stays. -/
theorem test_decReset :
    runs .decReset { after [0xAA, 0x81, 0x00, 0x60] with crc := 5 }
      (fun t => regs t == (.waitStart, 0, 0, 0) && t.crc == 5 && t.result == .none) = true := by decide
/-- X12 to X16: the registers on the way through the scan-enable frame. -/
theorem test_decoder_states :
    regs (after [0xAA]) = (.waitFlags, 1, 0, 0) ∧ regs (after [0xAA, 0x81]) = (.waitFlags, 2, 0, 0) ∧
    regs (after [0xAA, 0x81, 0x00]) = (.waitPayload, 3, 2, 1) ∧
    regs (after [0xAA, 0x81, 0x00, 0x60, 0x01]) = (.waitChecksum, 5, 2, 1) := by decide

/-! ### Select codes and wire formats -/

theorem test_selD : refusal? (exec .selD State.reset) = some (.selectsNothing 13) := by decide
theorem test_selE : refusal? (exec .selE State.reset) = some (.selectsNothing 14) := by decide
theorem test_selF : refusal? (exec .selF State.reset) = some (.selectsNothing 15) := by decide
/-- X8. -/
theorem test_frameRx :
    runs (.frameRx 1 0x1F [0x60, 0x01] 0x52FE) State.reset
      (fun t => t.result == .events [.frame [0xAA, 0xBF, 0x00, 0x60, 0x01] 2 1]) = true := by decide
/-- S1, I1: the identity is the sixteen characters. -/
theorem test_msgProductName :
    runs (.msgProductName 0 0 [0x53, 0x46, 0x34, 0x35, 0x20, 0x20, 0x20, 0x20, 0x20, 0x20, 0x20, 0x20, 0x20, 0x20, 0x20, 0x20]
        0xDCD6) State.reset
      (fun t => t.reports == [.identity [0x53, 0x46, 0x34, 0x35, 32, 32, 32, 32, 32, 32, 32, 32, 32, 32, 32, 32]]
        && t.pending.length == 0) = true := by decide +kernel
/-- S2, P7: one sample is queued and nothing reported. -/
theorem test_msgDistanceSample :
    runs (.msgDistanceSample 0 0 500 500 0 [] 0x8D1D) State.reset
      (fun t => t.pending.length == 1 && t.reports.length == 0) = true := by decide
theorem test_msgScanEnable :
    runs .msgScanEnable linked (fun t => t.tx == [[0xAA, 0x81, 0x00, 0x60, 0x01, 0x4D, 0xDC]]) = true := by decide

/-! ### Steps and the surroundings -/

theorem test_table_word : decodeTableWord 8 0x0A = some (.decRx 0) := by decide
theorem test_step_table_word :
    steps (State.reset.withFetchWord 8 0x05) (fun t => t.result == .bytes [0xAA, 0x40, 0x00, 0x00, 0x70, 0x9F]) = true := by
  decide
/-- I9: an opcode-44 frame with no data is delivered by the decoder and refused by the interpreter, so that a drain is. -/
theorem test_short_sample :
    steps { State.reset with inputs := [.command (encode (.decRxn [0xAA, 0x40, 0x00, 0x2C, 0x9E, 0x7A]))] }
      (fun t => t.result == .events [.frame [0xAA, 0x40, 0x00, 0x2C] 1 0] && t.pending.length == 0
        && refusal? (serveCall .drainDistanceResults t) == some (.interpreterShort 0)) = true := by decide
/-- R200, R202: the interpreter refuses that frame alone; S1's name after it is reported, in one chunk or in a later poll. -/
theorem test_name_after_short_sample :
    steps { State.reset with
        inputs := [.command (encode (.decRxn ([0xAA, 0x40, 0x00, 0x2C, 0x9E, 0x7A] ++ wireBytes 0 0 (0 :: sf45) 0xDCD6)))] }
      (fun t => t.reports == [.identity (sf45.map BitVec.toNat)]
        && steps { t with linkOpen := true, rx := wireBytes 0 0 (0 :: sf45) 0xDCD6, inputs := [.call .poll] }
          fun u => u.reports.length == 2) = true := by decide +kernel
/-- S2's bytes by `DEC.RXN`: the sample is queued by the step of the operation, once, and no later step adds another. -/
theorem test_sample_once :
    steps { State.reset with
        inputs := [.command (encode (.decRxn [0xAA, 0xC0, 0x01, 0x2C, 0xF4, 0x01, 0xF4, 0x01, 0x00, 0x00, 0x1D, 0x8D])),
          .call .poll] }
      (fun t => t.pending.length == 1 && steps t fun u => u.pending.length == 1) = true := by decide
/-- R233: the overflow is answered, lasts, and ends with `DEC.RESET`. -/
theorem test_overflow :
    runs (.decRx 0x81) cramped (fun t => t.result == .event .overflow && t.parser.overflowed && t.parser.cnt == 1
      && (exec (.decRx 0xAA) t matches .fault .bufferOverflow)
      && runs .decReset t fun u => !u.parser.overflowed) = true := by decide
/-- I8: opcode 96 is unknown to the interpreter. -/
theorem test_unknown_opcode : interpret [0xAA, 0x81, 0x00, 0x60, 0x01] 2 = .ok .unknown := by decide
/-- A poll of S8's bytes: a warning for the bad frame, nothing queued. -/
theorem test_poll :
    steps { linked with inputs := [.call .poll], rx := [0xAA, 0x81, 0x00, 0x60, 0x01, 0xB2, 0x23, 0xAA, 0x40, 0x00, 0x00, 0x70,
        0x9F] }
      (fun t => t.reports == [.checksumWarning 0x23B2 0xDC4D] && t.rx == [] && t.pending.length == 0
        && t.result == .handed [.checksumErr 0x23B2 0xDC4D, .frame [0xAA, 0x40, 0x00, 0x00] 1 0]) = true := by decide
/-- R97's form of E6's operation. -/
theorem test_written : writtenForm (.encWr8 96 (BitVec.ofInt 8 (-1))) = some "ENC.WR8 96, -1" := by decide +kernel
theorem test_written_bytes : writtenForm (.decRxn [0xAA, 0x40]) = some "DEC.RXN [AA 40]" := by decide +kernel
theorem test_arrive : steps { linked with inputs := [.arrive [1, 2]], rx := [0] } (fun t => t.rx == [0, 1, 2]) = true := by
  decide

/-! ### Witnesses: the hypotheses of the statements can be met -/

theorem payload_state_meets_inv : (after [0xAA, 0x81, 0x00]).Inv := ⟨by decide, by decide, by decide, by decide, by decide, by decide⟩
theorem checksum_state_meets_inv : (after [0xAA, 0x81, 0x00, 0x60, 0x01]).Inv :=
  ⟨by decide, by decide, by decide, by decide, by decide, by decide⟩
theorem last_byte_state_meets_inv : (after [0xAA, 0x40, 0x00, 0x00, 0x70]).Inv :=
  ⟨by decide, by decide, by decide, by decide, by decide, by decide⟩

theorem witness_SingleBitFlipChangesChecksum : (0 : Nat) < 8 ∧ (7 : Nat) < 8 := by decide
theorem witness_EncFrameBuildsFrame :
    ([] : List Byte).length ≤ 1022 ∧ (List.replicate 1022 (0 : Byte)).length = 1022 ∧
      1022 < (List.replicate 1023 (0 : Byte)).length := by decide +kernel
theorem witness_OnlyOverlongFrameIsRefused :
    1022 < (List.replicate 1023 (0 : Byte)).length ∧
    (∃ k, (Instr.encGet 0).sel = some k ∧ 5 ≤ k.toNat ∧ k.toNat ≤ 9) ∧
    ∃ k, (Instr.encWrf 0 0).sel = some k ∧ 5 ≤ k.toNat ∧ k.toNat ≤ 9 :=
  ⟨by decide +kernel, ⟨0x5, by decide⟩, ⟨0x9, by decide⟩⟩
theorem witness_EncWr16BuildsInt16Frame : State.reset.cfg.int16DeclaredPlen = .three := by decide
theorem witness_EncodedFramesLeaveWholeInOrder :
    (∀ i ∈ [Instr.encFrame 1 0 [], .encWrf 9 0], ∃ k, i.sel = some k ∧ 4 ≤ k.toNat ∧ k.toNat ≤ 9) ∧
      (runOps [.encFrame 1 0 [], .encWrf 9 0] linked).isSome = true ∧ linked.linkOpen = true ∧
      (runOps [.encFrame 1 0 [], .encWrf 9 0] State.reset).isSome = true ∧ State.reset.linkOpen = false := by
  refine ⟨?_, by decide⟩
  simp only [List.forall_mem_cons, List.not_mem_nil, false_implies, implies_true, and_true]
  exact ⟨⟨0x4, by decide⟩, ⟨0x9, by decide⟩⟩
theorem witness_WaitStartLooksForStartByte :
    State.reset.cfg.legal ∧ State.reset.parser.overflowed = false ∧ State.reset.parser.st = .waitStart ∧ (0x55 : Byte) ≠ 0xAA := by decide
theorem witness_WaitFlagsDecodesHeader :
    (after [0xAA]).cfg.legal ∧ (after [0xAA]).parser.overflowed = false ∧ (after [0xAA, 0x81]).parser.overflowed = false ∧
      (after [0xAA]).parser.st = .waitFlags ∧ (after [0xAA]).parser.cnt = 1 ∧
      (after [0xAA, 0x81]).parser.st = .waitFlags ∧ (after [0xAA, 0x81]).parser.cnt = 2 := by decide
theorem witness_WaitPayloadStoresPayload :
    (after [0xAA, 0x81, 0x00]).Inv ∧ (after [0xAA, 0x81, 0x00]).parser.st = .waitPayload :=
  ⟨payload_state_meets_inv, by decide⟩
theorem witness_WaitChecksumVerifiesFrame :
    (after [0xAA, 0x81, 0x00, 0x60, 0x01]).Inv ∧ (after [0xAA, 0x40, 0x00, 0x00, 0x70]).Inv ∧
      (after [0xAA, 0x81, 0x00, 0x60, 0x01]).parser.st = .waitChecksum ∧
      (after [0xAA, 0x81, 0x00, 0x60, 0x01]).parser.cnt.toNat = 3 + (after [0xAA, 0x81, 0x00, 0x60, 0x01]).parser.plen.toNat ∧
      (after [0xAA, 0x40, 0x00, 0x00, 0x70]).parser.st = .waitChecksum ∧
      (after [0xAA, 0x40, 0x00, 0x00, 0x70]).parser.cnt.toNat = 4 + (after [0xAA, 0x40, 0x00, 0x00, 0x70]).parser.plen.toNat :=
  ⟨checksum_state_meets_inv, last_byte_state_meets_inv, by decide⟩
theorem witness_ChunkingCannotBeObserved :
    runs (.decRxn [0xAA, 0x40]) State.reset (fun t => runs (.decRxn [0x00]) t fun _ => true) = true ∧
      (exec (.decRxn [0xAA, 0, 0, 0]) { State.reset with cfg := { bufCap := 2 } } matches .fault .bufferOverflow) = true ∧
      runs (.decRxn [0xAA]) { State.reset with cfg := { bufCap := 2 } }
        (fun t => exec (.decRxn [0, 0, 0]) t matches .fault .bufferOverflow) = true := by decide
theorem witness_DeliveredFrameHoldsHeaderAndPayload :
    (after [0xAA, 0x40, 0x00, 0x00, 0x70]).Inv ∧
      runs (.decRx 0x9F) (after [0xAA, 0x40, 0x00, 0x00, 0x70])
        (fun t => t.result == .event (.frame [0xAA, 0x40, 0x00, 0x00] 1 0)) = true :=
  ⟨last_byte_state_meets_inv, by decide⟩
theorem witness_StartByteCommitsToWholeFrame :
    ({} : Config).legal ∧ ParserState.reset.overflowed = false ∧ ParserState.reset.st = .waitStart ∧ [(0x2C : Byte)].length = (flagsPlen (le16 0x40 0x00)).toNat ∧
      ([] : List Byte).length = (flagsPlen (le16 0x3E 0x00)).toNat ∧
      (List.replicate 1023 (0 : Byte)).length = (flagsPlen (le16 0xC1 0xFF)).toNat := by decide +kernel
theorem witness_EncodedFrameRoundTrip :
    ({ int16DeclaredPlen := .four } : Config).legal ∧ ({} : Config).int16DeclaredPlen = .three ∧
      ParserState.reset.overflowed = false ∧ ParserState.reset.st = .waitStart ∧ ([] : List Byte).length ≤ 1022 ∧
      (List.replicate 1022 (0 : Byte)).length ≤ 1022 := by decide +kernel
theorem witness_ChecksumMismatchIsIsolated :
    ({} : Config).legal ∧ ParserState.reset.overflowed = false ∧ ParserState.reset.st = .waitStart ∧ [(0x60 : Byte), 0x01].length ≤ 1023 ∧
      (0xDD4D : Half) ≠ crc16 (0xAA :: (bytesLe16 (packFlags 2 0 1) ++ [0x60, 0x01])) ∧
      (rxChunk {} [0xAA, 0x40, 0x00, 0x00, 0x70, 0x9F] .reset matches .ok ([.frame _ _ _], _)) = true := by decide
theorem witness_LeftoverBytesAreInvisible :
    ParserState.agree .reset { ParserState.reset with buf := [(0, 0x55), (7, 0x12)] } := by decide
theorem witness_FramingErrorCannotOccur :
    runs (.decRx 0xFF) (after [0xAA, 0xC1]) (fun t => t.result == .event .none) = true ∧
      runs (.decRxn [0xAA, 0x01, 0x00, 0x6C, 0x49]) State.reset (fun t => t.result == .events [.frame [0xAA, 0x01, 0x00] 0 1])
        = true ∧
      (serveCall .poll { linked with rx := [0xAA, 0x01, 0x00, 0x6C, 0x49] } matches .next { result := .handed [_], .. })
        = true := by decide
theorem witness_AppendIsGuarded :
    cramped.parser.overflowed = false ∧ cramped.parser.st ≠ .waitStart ∧ cramped.cfg.bufCap ≤ cramped.parser.cnt.toNat ∧
      cramped.parser.cnt.toNat < ({ bufCap := 2 } : Config).bufCap ∧
      ({ State.reset with cfg := { bufCap := 0 } } : State).parser.st = .waitStart ∧
      ({ State.reset with cfg := { bufCap := 0 } } : State).cfg.bufCap = 0 := by decide
theorem witness_OverflowLastsUntilReset :
    let s : State := { cramped with parser := { cramped.parser with overflowed := true } }
    s.parser.overflowed = true ∧ Instr.decReset ∉ [Instr.crcStep 1, .encGet 0, .decRxn []] ∧
      (runOps [.crcStep 1, .encGet 0, .decRxn []] s).isSome = true := by decide
theorem witness_DecRxStoresAtOneIndex : runs (.decRx 0x81) (after [0xAA]) (fun _ => true) = true ∧
    runs (.decRx 0x55) State.reset (fun _ => true) = true := by decide
theorem witness_StoresStayBelowFrameBound :
    (after [0xAA, 0x81, 0x00]).Inv ∧ runs (.decRxn [0x60, 0x01]) (after [0xAA, 0x81, 0x00]) (fun _ => true) = true ∧
      1028 ≤ 1028 :=
  ⟨payload_state_meets_inv, by decide, by decide⟩
theorem witness_DecoderNeverRefusesBytes : (after [0xAA, 0x81, 0x00]).Inv := payload_state_meets_inv
theorem witness_NoStepOverflowsBuffer : (after [0xAA, 0x40, 0x00, 0x00, 0x70]).Inv := last_byte_state_meets_inv
theorem witness_DirectionsAreIndependent :
    (∀ i ∈ [Instr.crcStep 1, .decRx 0xAA, .encGet 0, .decReset], ∃ k, i.sel = some k ∧ k.toNat ≤ 0xC) ∧
      (runOps [.crcStep 1, .decRx 0xAA, .encGet 0, .decReset] linked).isSome = true := by
  refine ⟨?_, by decide⟩
  simp only [List.forall_mem_cons, List.not_mem_nil, false_implies, implies_true, and_true]
  exact ⟨⟨0x1, by decide⟩, ⟨0xA, by decide⟩, ⟨0x5, by decide⟩, ⟨0xC, by decide⟩⟩
theorem witness_OperationsWriteOnlyTheirState :
    (Instr.crcRead).sel = some 0x2 ∧ runs .crcRead State.reset (fun _ => true) = true ∧ isDecoderOp .crcRead = false ∧
      (Instr.decReset).sel = some 0xC ∧ runs .decReset State.reset (fun _ => true) = true := by decide
theorem witness_EveryStepKeepsInvariant :
    { after [0xAA, 0x81, 0x00] with inputs := [.command [0x0A, 0x60]] }.Inv ∧
      steps { after [0xAA, 0x81, 0x00] with inputs := [.command [0x0A, 0x60]] } (fun _ => true) = true :=
  ⟨⟨by decide, by decide, by decide, by decide, by decide, by decide⟩, by decide⟩
theorem witness_ReceivedFrameGivesOneEvent :
    State.reset.cfg.legal ∧ State.reset.parser.overflowed = false ∧ State.reset.parser.st = .waitStart ∧
      (List.replicate 1023 (0 : Byte)).length ≤ 1023 := by
  decide +kernel
theorem witness_ProductNameIsReported :
    State.reset.cfg.legal ∧ State.reset.parser.overflowed = false ∧ State.reset.parser.st = .waitStart ∧
      (List.replicate 16 (0x7E : Byte)).length = 16 ∧
      ∀ b ∈ [(0x20 : Byte), 0x7E], 0x20 ≤ b.toNat ∧ b.toNat ≤ 0x7E := by decide
theorem witness_DistanceSampleIsQueued :
    State.reset.cfg.legal ∧ State.reset.parser.overflowed = false ∧ State.reset.parser.st = .waitStart ∧
      (List.replicate 1016 (0 : Byte)).length ≤ 1016 := by
  decide +kernel
theorem witness_DecodeTakesBackEncode :
    (Instr.encFrame 0xAA 1 [0xAA]).wellFormed = true ∧ (Instr.frameRx 1 0x1F [] 0).wellFormed = true ∧
      (Instr.msgDistanceSample 0 0 0 0 0 [] 0).wellFormed = true := by decide
theorem witness_WireBytesHaveOneMeaning :
    decode [0xAA, 0x00, 0x00, 0x5D, 0x7A] = .ok (.frameRx 0 0 [] 0x7A5D, []) := by decide
theorem witness_SelectBitsChooseOperation : (0x02 : Byte) ≠ 0xAA ∧ decode [0x02] = .ok (.crcRead, []) := by decide
theorem witness_StepRunsDecodedOperation :
    (State.reset.withFetchWord 8 0x05).inputs = .command (tableBytes 8 0x05) :: [] ∧
      (decode (tableBytes 8 0x05) matches .ok (.encGet 0, _)) = true ∧ decode [0x05] = .error .truncated ∧
      decodeTableWord 8 0x05 = some (.encGet 0) ∧
      runs (.encGet 0) State.reset (fun t => t.result.eventList == []) = true ∧
      (exec (.decRx 0) { cramped with parser := { cramped.parser with overflowed := true } } matches .fault _) = true ∧
      (decode [0x0A, 0x00] matches .ok (.decRx 0, _)) = true ∧ decode [0x0D] = .ok (.selD, []) ∧
      refusal? (exec .selD State.reset) = some (.selectsNothing 0xD) :=
  ⟨rfl, by decide⟩
theorem witness_NothingHappensWithoutInput : State.reset.inputs = [] := rfl
theorem witness_InterpreterActsByOpcode :
    (List.replicate 16 (0x20 : Byte)).length = 16 ∧ ([] : List Byte).length ≠ 16 ∧ [(0 : Byte), 0, 0, 0, 0].length < 6 ∧
      (96 : Byte) ≠ 0 ∧ (96 : Byte) ≠ 44 := by decide
theorem witness_PollQueuesEachSampleInOrder :
    let s : State := { linked with rx := encodeFrame 44 0 (bytesLe16 500 ++ bytesLe16 500 ++ bytesLe16 0) }
    s.cfg.legal ∧ s.linkOpen = true ∧ s.parser.overflowed = false ∧ s.parser.st = .waitStart ∧
      s.rx = ([((500 : Half), (500 : Half), (0 : Half))].map
        fun m => encodeFrame 44 0 (bytesLe16 m.1 ++ bytesLe16 m.2.1 ++ bytesLe16 m.2.2)).flatten := by decide
theorem witness_DrainTakesWholeQueue :
    State.reset.interpRefused = none ∧
      (State.reset.refuseFrame (.interpreterShort 0)).interpRefused = some (.interpreterShort 0) := by decide
theorem witness_ClosedLinkCarriesNothing :
    State.reset.linkOpen = false ∧ runs (.encGet 0) State.reset (fun t => t.tx == []) = true ∧
      (∀ identifier baudRate, HostCall.sendScanDisable ≠ .connect identifier baudRate true) ∧
      (serveCall .sendScanDisable State.reset matches .next { tx := [], .. }) = true := by
  refine ⟨rfl, by decide, ?_, by decide⟩
  intros
  simp
theorem witness_ConnectSendsSessionStart :
    CatalogStep.setLowAngle ≠ .disableScanning ∧ CatalogStep.setLowAngle ≠ .requestProduct ∧
      CatalogStep.setLowAngle ≠ .enableScanning := by decide
theorem witness_HostCallsSendTheirFrames :
    ({ linked with inputs := [.call .sendGetProduct] } : State).inputs = .call .sendGetProduct :: [] := rfl
/-- Every kind of answer, and each outcome of the interpreter: S2's sample, S1's identity, I8's unknown opcode, I9's refusal. -/
theorem witness_EventsReachInterpreterInTheirStep :
    decode [0x0A, 0x9F] = .ok (.decRx 0x9F, []) ∧
      runs (.decRx 0x9F) (after [0xAA, 0x40, 0x00, 0x00, 0x70])
        (fun t => t.result == .event (.frame [0xAA, 0x40, 0x00, 0x00] 1 0)) = true ∧
      (decode [0x0B, 0x00] matches .ok (.decRxn [], _)) = true ∧
      runs (.decRxn []) State.reset (fun t => t.result == .events []) = true ∧
      (decode [0xAA, 0xC0, 0x01, 0x2C, 0xF4, 0x01, 0xF4, 0x01, 0x00, 0x00, 0x1D, 0x8D] matches
        .ok (.msgDistanceSample 0 0 500 500 0 [] 0x8D1D, _)) = true ∧
      runs (.msgDistanceSample 0 0 500 500 0 [] 0x8D1D) State.reset (fun t => t.result matches .handed _) = true ∧
      (interpret ([0xAA, 0x40, 0x04, 0x00] ++ List.replicate 16 0x20) (17 : BitVec 10).toNat matches .ok (.identity _))
        = true ∧
      (interpret [0xAA, 0xC0, 0x01, 0x2C, 0xF4, 0x01, 0xF4, 0x01, 0x00, 0x00] (7 : BitVec 10).toNat matches
        .ok (.distanceSample _)) = true ∧
      interpret [0xAA, 0x81, 0x00, 0x60, 0x01] (2 : BitVec 10).toNat = .ok .unknown ∧
      interpret [0xAA, 0x40, 0x00, 0x2C] (1 : BitVec 10).toNat = .error (.interpreterShort 0) := by decide
theorem witness_ArrivingBytesAreKeptInOrder :
    linked.linkOpen = true ∧ ({ linked with inputs := [.arrive [1]] } : State).inputs = .arrive [1] :: [] := ⟨rfl, rfl⟩
/-- A poll that answers, one that faults, one that is refused; and the bytes of a message row. -/
theorem witness_PollFeedsDecoderAndHandsOver :
    linked.linkOpen = true ∧ exec (.decRxn linked.rx) linked = .next { linked with parser := .reset, result := .events [] } ∧
      ([] : List Event).findSome? Event.refusal? = none ∧ (∀ bytes n w, Event.overflow ≠ .frame bytes n w) ∧
      (exec (.decRxn [0, 0]) { cramped with linkOpen := true, rx := [0, 0] } matches .fault .bufferOverflow) = true ∧
      (exec (.decRxn [0xAA, 0x40, 0x00, 0x2C, 0x9E, 0x7A]) linked matches
        .next { result := .events [.frame [0xAA, 0x40, 0x00, 0x2C] 1 0], .. }) = true ∧
      [Event.frame [0xAA, 0x40, 0x00, 0x2C] 1 0].findSome? Event.refusal? = some (.interpreterShort 0) ∧
      (exec (.decRxn (wireBytes 0 0 (0x2C :: (bytesLe16 500 ++ bytesLe16 500 ++ bytesLe16 0 ++ [])) 0x8D1D)) State.reset matches
        .next { result := .events [.frame _ 7 0], .. }) = true :=
  ⟨rfl, rfl, rfl, fun _ _ _ => by simp, by decide⟩

end Sys2Proof.Tests
end

namespace Sys2Proof.Machine

/-! ### What a step does with its next input -/

/-- A step takes the next input off the list and serves it (log entry 2). -/
theorem step_of_inputs_cons {s : State} {input : Input} {rest : List Input} (h : s.inputs = input :: rest) :
    step s = serve input { s with inputs := rest } := by
  simp [step, h]

theorem serve_command_of_decode_ok {bytes tail : List Byte} {i : Instr} (h : decode bytes = .ok (i, tail)) (s : State) :
    serve (.command bytes) s = thenHandOver (exec i s) := by
  simp [serve, h]

theorem serve_command_of_decode_error {bytes : List Byte} {e : DecodeError} (h : decode bytes = .error e) (s : State) :
    serve (.command bytes) s = .refused (.undecoded e) := by
  simp [serve, h]

/-- The step of bytes that decode to an operation: the operation without its input, then the hand-over (R94, R200). -/
theorem step_of_command {s : State} {bytes tail : List Byte} {rest : List Input} {i : Instr}
    (hin : s.inputs = .command bytes :: rest) (hdec : decode bytes = .ok (i, tail)) :
    step s = thenHandOver (exec i { s with inputs := rest }) := by
  rw [step_of_inputs_cons hin, serve_command_of_decode_ok hdec]

/-- A table word that names an operation decodes to it, with some bytes left over. -/
theorem decode_tableBytes_of_decodeTableWord {nbits w : Nat} {i : Instr} (h : decodeTableWord nbits w = some i) :
    ∃ tail, decode (tableBytes nbits w) = .ok (i, tail) := by
  unfold decodeTableWord at h
  split at h
  · next j tail hdec =>
    obtain rfl : j = i := by simpa using h
    exact ⟨tail, hdec⟩
  · simp at h

/-- The step of a word placed next runs its operation on the state as it was before the word was placed (log entry 2). -/
theorem step_withFetchWord {nbits w : Nat} {i : Instr} (h : decodeTableWord nbits w = some i) (s : State) :
    step (s.withFetchWord nbits w) = thenHandOver (exec i s) := by
  obtain ⟨tail, hdec⟩ := decode_tableBytes_of_decodeTableWord h
  exact step_of_command rfl hdec

/-! ### What the hand-over makes of an operation's outcome -/

theorem thenHandOver_next_of_nil {t : State} (h : t.result.eventList = []) : thenHandOver (.next t) = .next t := by
  simp [thenHandOver, interpretResult_of_nil h]

@[simp] theorem thenHandOver_of_fault (f : Fault) : thenHandOver (.fault f) = .fault f := rfl
@[simp] theorem thenHandOver_of_refused (r : Refusal) : thenHandOver (.refused r) = .refused r := rfl

/-- Settles O48: a step is the decoded operation and the hand-over of its events, which leaves an answer without events and
a stop as they are. -/
theorem stepRunsDecodedOperation : Obligations.StepRunsDecodedOperation := by
  refine ⟨fun s bytes tail rest i hin hdec => ?_, fun s bytes rest e hin hdec => ?_, fun s nbits w i hword => ?_⟩
  · have hstep := step_of_command hin hdec
    refine ⟨hstep, fun t hexec hnil => ?_, fun f hexec => ?_, fun r hexec => ?_⟩
    · rw [hstep, hexec, thenHandOver_next_of_nil hnil]
    · rw [hstep, hexec, thenHandOver_of_fault]
    · rw [hstep, hexec, thenHandOver_of_refused]
  · rw [step_of_inputs_cons hin, serve_command_of_decode_error hdec]
  · exact step_withFetchWord hword s

end Sys2Proof.Machine

namespace Sys2Proof.Machine

/-! ### The state after reset -/

/-- Between frames nothing of `buf` is in use, so a canonical buffer within its capacity is all R26 asks for. -/
theorem ParserState.inv_of_waitStart {c : Config} {p : ParserState} (hst : p.st = .waitStart) (hcnt : p.cnt = 0)
    (hclear : p.overflowed = false) (hwf : p.buf.wf) (hrange : ∀ cell ∈ p.buf, cell.1 < c.bufCap) : p.Inv c where
  tag := by simp [ParserState.tagInv, hst, hcnt]
  clear := hclear
  wf := hwf
  inRange := hrange
  written := by simp [hcnt]

/-- Settles O36: the reset state is in `WAIT_START` over an empty buffer. -/
theorem resetSatisfiesInvariant : Obligations.ResetSatisfiesInvariant where
  legal := Nat.le_refl 1028
  parser := ParserState.inv_of_waitStart rfl rfl rfl reset_memory_wf (fun _ hcell => nomatch hcell)

/-- Settles O35: the registers by their definition; with `cnt = 0` every read is a draw (R52). -/
theorem resetValuesAreTheSpecs : Obligations.ResetValuesAreTheSpecs :=
  ⟨rfl, rfl, rfl, rfl, rfl, rfl, fun i => ⟨byteAt_of_le (Nat.zero_le i), Memory.cell?_nil i⟩, rfl, rfl⟩

/-! ### The one cell a received byte may write -/

theorem cell?_stored_of_ne {p : ParserState} {a : Nat} (b : Byte) (h : a ≠ p.cnt.toNat) :
    (p.stored b).buf.cell? a = p.buf.cell? a := Memory.cell?_put_of_ne _ _ h

@[simp] theorem flagsComplete_buf (q : ParserState) : (flagsComplete q).2.buf = q.buf := by
  rw [flagsComplete_eq]

/-- A rule stores at index 0 from `WAIT_START` and at `cnt` otherwise, or nowhere (R34, R53). -/
theorem rxRule_cell?_of_ne {c : Config} {b : Byte} {p q : ParserState} {e : Event} {a : Nat} (h : rxRule c b p = (e, q))
    (ha : a ≠ if p.st = .waitStart then 0 else p.cnt.toNat) : q.buf.cell? a = p.buf.cell? a := by
  have hstored (hst : p.st ≠ .waitStart) : (p.stored b).buf.cell? a = p.buf.cell? a :=
    cell?_stored_of_ne b (by simpa [hst] using ha)
  rcases rxRule_cases h with ⟨_, _, _, rfl⟩ | ⟨hst, _, _, _, rfl⟩ | ⟨_, _, _, _, rfl⟩ | ⟨_, _, _, rfl⟩ |
    ⟨hst, _, _, _, rfl⟩ | ⟨hst, _, _, hq⟩ | ⟨hst, _, _, rfl⟩ | ⟨hst, _, _, _, rfl⟩ | ⟨hst, _, _, _, rfl⟩
  · rfl
  · exact cell?_stored_of_ne (p := { p with cnt := 0 }) b (by simpa [hst] using ha)
  · rfl
  · rfl
  · exact hstored (by simp [hst])
  · have hq : q = (flagsComplete (p.stored b)).2 := congrArg Prod.snd hq
    rw [hq, flagsComplete_buf]
    exact hstored (by simp [hst])
  · split <;> exact hstored (by simp [hst])
  · exact hstored (by simp [hst])
  · exact hstored (by simp [hst])

/-- A byte other than the start byte is dropped by `WAIT_START` (R163). -/
theorem rxRule_waitStart_of_ne {c : Config} {b : Byte} {p : ParserState} (hst : p.st = .waitStart) (hb : b ≠ startByte) :
    rxRule c b p = (.none, p) := by
  simp only [rxRule, hst, rxWaitStart, if_neg hb]

/-- Settles O31: the rule that the byte ran writes at most its one cell, and `WAIT_START` drops other bytes. -/
theorem decRxStoresAtOneIndex : Obligations.DecRxStoresAtOneIndex := by
  intro s t b h
  obtain ⟨e, p, hbyte, rfl⟩ := execDecRx_next h
  obtain ⟨_, hrule⟩ := rxByte_ok hbyte
  refine ⟨fun a ha => rxRule_cell?_of_ne hrule ha, fun hst hb => ?_⟩
  rw [rxRule_waitStart_of_ne hst hb] at hrule
  exact (congrArg Prod.snd hrule).symm

/-! ### Leftover bytes: agreement is a bisimulation for received bytes -/

/-- A read at or above `cnt` is a draw of the index alone, so agreement below `cnt` is agreement at every index (R52). -/
theorem byteAt_eq_of_agree {p q : ParserState} (h : p.agree q) (i : Nat) : p.byteAt i = q.byteAt i := by
  obtain ⟨_, hcnt, _, _, _, hbytes⟩ := h
  by_cases hi : i < p.cnt.toNat
  · exact hbytes i hi
  · rw [byteAt_of_le (Nat.le_of_not_lt hi), byteAt_of_le (hcnt ▸ Nat.le_of_not_lt hi)]

theorem bytesTo_eq_of_agree {p q : ParserState} (h : p.agree q) (n : Nat) : p.bytesTo n = q.bytesTo n :=
  List.map_congr_left fun i _ => byteAt_eq_of_agree h i

/-- With `cnt = 0` no byte of `buf` is in use, and agreement is agreement of the registers. -/
theorem agree_of_cnt_zero {p q : ParserState} (hst : p.st = q.st) (hp : p.cnt = 0) (hq : q.cnt = 0)
    (hplen : p.plen = q.plen) (hwflag : p.wflag = q.wflag) (hov : p.overflowed = q.overflowed) : p.agree q :=
  ⟨hst, hp.trans hq.symm, hplen, hwflag, hov, by simp [hp]⟩

theorem agree_parserReset {p q : ParserState} (h : p.agree q) : p.parserReset.agree q.parserReset := by
  obtain ⟨_, _, _, _, hov, _⟩ := h
  exact agree_of_cnt_zero rfl rfl rfl rfl rfl hov

/-- Storing one byte keeps agreement; a `cnt` of 2047 wraps to 0, below which there is nothing to agree on. -/
theorem agree_stored {p q : ParserState} (h : p.agree q) (b : Byte) : (p.stored b).agree (q.stored b) := by
  obtain ⟨hst, hcnt, hplen, hwflag, hov, hbytes⟩ := h
  by_cases hlt : p.cnt.toNat < 2047
  · refine ⟨hst, by simp [hcnt], hplen, hwflag, hov, fun i hi => ?_⟩
    have hltq : q.cnt.toNat < 2047 := hcnt ▸ hlt
    rw [stored_cnt_toNat b hlt] at hi
    rcases Nat.lt_succ_iff_lt_or_eq.mp hi with hi | rfl
    · rw [byteAt_stored_of_lt b hlt hi, byteAt_stored_of_lt b hltq (hcnt ▸ hi), hbytes i hi]
    · rw [byteAt_stored_self b hlt, hcnt, byteAt_stored_self b hltq]
  · have hwrap : p.cnt + 1 = 0 := by bv_omega
    have hwrapq : q.cnt + 1 = 0 := hcnt ▸ hwrap
    exact agree_of_cnt_zero hst hwrap hwrapq hplen hwflag hov

/-- The guarded append overflows in both of two agreeing ParserStates or stores in both. -/
theorem append_cases_of_agree (c : Config) {p q : ParserState} (h : p.agree q) (b : Byte) :
    (p.append c b = .error .overflow ∧ q.append c b = .error .overflow) ∨
    (p.append c b = .ok (p.stored b) ∧ q.append c b = .ok (q.stored b)) := by
  obtain ⟨_, hcnt, _⟩ := h
  simp only [ParserState.append, hcnt]
  split
  · exact .inl ⟨rfl, rfl⟩
  · exact .inr ⟨rfl, rfl⟩

/-- The same event, and ParserStates that agree. -/
def AnswersAlike (x y : Event × ParserState) : Prop := x.1 = y.1 ∧ x.2.agree y.2

theorem takeOverflow_alike {p q : ParserState} (h : p.agree q) (e : Event) :
    AnswersAlike (takeOverflow e p) (takeOverflow e q) := by
  obtain ⟨hst, hcnt, hplen, hwflag, _, hbytes⟩ := h
  exact ⟨rfl, hst, hcnt, hplen, hwflag, rfl, hbytes⟩

theorem agree_setSt {p q : ParserState} (h : p.agree q) (st : DecState) :
    ({ p with st := st } : ParserState).agree { q with st := st } := by
  obtain ⟨_, hrest⟩ := h
  exact ⟨rfl, hrest⟩

theorem rxWaitStart_alike (c : Config) (b : Byte) {p q : ParserState} (h : p.agree q) :
    AnswersAlike (rxWaitStart c b p) (rxWaitStart c b q) := by
  unfold rxWaitStart
  split
  · have h0 : ({ p with cnt := 0 } : ParserState).agree { q with cnt := 0 } := by
      obtain ⟨hst, _, hplen, hwflag, hov, _⟩ := h
      exact agree_of_cnt_zero hst rfl rfl hplen hwflag hov
    rcases append_cases_of_agree c h0 b with ⟨hp, hq⟩ | ⟨hp, hq⟩ <;> rw [hp, hq]
    · exact takeOverflow_alike h0 _
    · exact ⟨rfl, agree_setSt (agree_stored h0 b) _⟩
  · exact ⟨rfl, h⟩

theorem flagsComplete_alike {p q : ParserState} (h : p.agree q) :
    AnswersAlike (flagsComplete p) (flagsComplete q) := by
  obtain ⟨_, hcnt, _, _, hov, hbytes⟩ := id h
  rw [flagsComplete_eq, flagsComplete_eq, byteAt_eq_of_agree h 1, byteAt_eq_of_agree h 2]
  exact ⟨rfl, rfl, hcnt, rfl, rfl, hov, hbytes⟩

theorem rxWaitFlags_alike (c : Config) (b : Byte) {p q : ParserState} (h : p.agree q) :
    AnswersAlike (rxWaitFlags c b p) (rxWaitFlags c b q) := by
  rcases append_cases_of_agree c h b with ⟨hp, hq⟩ | ⟨hp, hq⟩ <;> simp only [rxWaitFlags, hp, hq]
  · exact takeOverflow_alike h _
  · obtain ⟨_, hcnt, _⟩ := agree_stored h b
    rw [hcnt]
    split
    · exact flagsComplete_alike (agree_stored h b)
    · exact ⟨rfl, agree_stored h b⟩

theorem rxWaitPayload_alike (c : Config) (b : Byte) {p q : ParserState} (h : p.agree q) :
    AnswersAlike (rxWaitPayload c b p) (rxWaitPayload c b q) := by
  rcases append_cases_of_agree c h b with ⟨hp, hq⟩ | ⟨hp, hq⟩ <;> simp only [rxWaitPayload, hp, hq]
  · exact takeOverflow_alike h _
  · obtain ⟨_, hcnt, hplen, _⟩ := agree_stored h b
    by_cases hdone : (q.stored b).cnt.toNat = 3 + (q.stored b).plen.toNat
    · rw [if_pos hdone, if_pos (by rw [hcnt, hplen, hdone])]
      exact ⟨rfl, agree_setSt (agree_stored h b) _⟩
    · rw [if_neg hdone, if_neg (by rwa [hcnt, hplen])]
      exact ⟨rfl, agree_stored h b⟩

/-- The verdict reads `cnt`, `plen`, `wflag` and bytes of `buf`, and nothing else. -/
theorem frameVerdict_eq_of_agree {p q : ParserState} (h : p.agree q) : frameVerdict p = frameVerdict q := by
  obtain ⟨_, hcnt, hplen, hwflag, _⟩ := id h
  simp only [frameVerdict, hcnt, hplen, hwflag, byteAt_eq_of_agree h, bytesTo_eq_of_agree h]

theorem rxWaitChecksum_alike (c : Config) (b : Byte) {p q : ParserState} (h : p.agree q) :
    AnswersAlike (rxWaitChecksum c b p) (rxWaitChecksum c b q) := by
  rcases append_cases_of_agree c h b with ⟨hp, hq⟩ | ⟨hp, hq⟩ <;> simp only [rxWaitChecksum, hp, hq]
  · exact takeOverflow_alike h _
  · obtain ⟨_, hcnt, hplen, _⟩ := agree_stored h b
    rw [hcnt, hplen]
    split
    · exact ⟨frameVerdict_eq_of_agree (agree_stored h b), agree_parserReset (agree_stored h b)⟩
    · exact ⟨rfl, agree_stored h b⟩

theorem rxRule_alike (c : Config) (b : Byte) {p q : ParserState} (h : p.agree q) :
    AnswersAlike (rxRule c b p) (rxRule c b q) := by
  obtain ⟨hst, _⟩ := id h
  unfold rxRule
  rw [hst]
  cases q.st with
  | waitStart => exact rxWaitStart_alike c b h
  | waitFlags => exact rxWaitFlags_alike c b h
  | waitPayload => exact rxWaitPayload_alike c b h
  | waitChecksum => exact rxWaitChecksum_alike c b h

/-- Settles O27: a recorded overflow faults on both sides; otherwise both run the rule of their common state tag. -/
theorem leftoverBytesAreInvisible : Obligations.LeftoverBytesAreInvisible := by
  intro c p q b h
  obtain ⟨_, _, _, _, hov, _⟩ := id h
  cases hp : p.overflowed with
  | true =>
    rw [rxByte_error_iff.mpr ⟨hp, rfl⟩, rxByte_error_iff.mpr ⟨hov.symm.trans hp, rfl⟩]
  | false =>
    rw [rxByte_eq hp, rxByte_eq (hov.symm.trans hp)]
    exact rxRule_alike c b h

/-! ### What an operation can do to the machine -/

/-- How a decoder operation moves ParserState: it resets it, or feeds it bytes. -/
inductive ParserMove (c : Config) (p q : ParserState) : Prop where
  | reset (hq : q = p.decReset)
  | fed (bytes : List Byte) (es : List Event) (hrx : rxAll c bytes p = .ok (es, q))

theorem ParserMove.of_rxChunk {c : Config} {bytes : List Byte} {p q : ParserState} {es : List Event}
    (h : rxChunk c bytes p = .ok (es, q)) : ParserMove c p q := by
  obtain ⟨all, hall, _⟩ := rxChunk_ok h
  exact .fed bytes all hall

theorem ParserMove.of_rxByte {c : Config} {b : Byte} {p q : ParserState} {e : Event}
    (h : rxByte c b p = .ok (e, q)) : ParserMove c p q :=
  .fed [b] [e] (by rw [rxAll_cons h, rxAll_nil]; rfl)

/-- What an operation that answers `t` did to `s`, by the state it writes (R34), with the `sel` codes (R94) that do so. The
wire formats have no code. -/
inductive OperationEffect (i : Instr) (s t : State) : Prop where
  | wroteCrc (v : Half) (hsel : ∀ k ∈ i.sel, k.toNat < 2) (ht : t = (s.setCrc v).answer .none)
  | readChecksum (v : Half) (hsel : ∀ k ∈ i.sel, 2 ≤ k.toNat ∧ k.toNat < 4) (ht : t = s.answer (.checksum v))
  | sent (bytes : List Byte) (hsel : ∀ k ∈ i.sel, 4 ≤ k.toNat ∧ k.toNat ≤ 9) (ht : t = s.emitFrame bytes)
  | decoded (p : ParserState) (r : Result) (hsel : ∀ k ∈ i.sel, 9 < k.toNat ∧ isDecoderOp i = true)
      (hmove : ParserMove s.cfg s.parser p) (ht : t = (s.setParser p).answer r)
  | delivered (p : ParserState) (es : List Event) (hsel : i.sel = none) (hmove : ParserMove s.cfg s.parser p)
      (ht : t = handOverAll es ((s.setParser p).answer (.handed es)))

theorem execEncFrame_next {op : Byte} {wf : BitVec 1} {val : List Byte} {s t : State}
    (h : execEncFrame op wf val s = .next t) : t = s.emitFrame (encodeFrame op wf val) := by
  unfold execEncFrame at h
  split at h
  · cases h
  · exact (Host.Outcome.next.inj h).symm

/-- Everything an operation that answers can do. -/
theorem exec_effect {i : Instr} {s t : State} (h : exec i s = .next t) : OperationEffect i s t := by
  cases i with
  | crcInit => exact .wroteCrc _ (by simp [Instr.sel]) (Host.Outcome.next.inj h).symm
  | crcStep b => exact .wroteCrc _ (by simp [Instr.sel]) (Host.Outcome.next.inj h).symm
  | crcRead => exact .readChecksum _ (by simp [Instr.sel]) (Host.Outcome.next.inj h).symm
  | crcBlock bytes => exact .readChecksum _ (by simp [Instr.sel]) (Host.Outcome.next.inj h).symm
  | encFrame op wf val => exact .sent _ (by simp [Instr.sel]) (execEncFrame_next h)
  | encGet op => exact .sent _ (by simp [Instr.sel]) (Host.Outcome.next.inj h).symm
  | encWr8 op v => exact .sent _ (by simp [Instr.sel]) (Host.Outcome.next.inj h).symm
  | encWr16 op v => exact .sent _ (by simp [Instr.sel]) (Host.Outcome.next.inj h).symm
  | encWr32 op v => exact .sent _ (by simp [Instr.sel]) (Host.Outcome.next.inj h).symm
  | encWrf op p => exact .sent _ (by simp [Instr.sel]) (Host.Outcome.next.inj h).symm
  | decRx b =>
    obtain ⟨e, p, hbyte, ht⟩ := execDecRx_next h
    exact .decoded p _ (by simp [Instr.sel, isDecoderOp]) (.of_rxByte hbyte) ht
  | decRxn bytes =>
    obtain ⟨es, p, hchunk, ht⟩ := receiveChunk_next h
    exact .decoded p _ (by simp [Instr.sel, isDecoderOp]) (.of_rxChunk hchunk) ht
  | decReset =>
    exact .decoded _ _ (by simp [Instr.sel, isDecoderOp]) (.reset rfl) (Host.Outcome.next.inj h).symm
  | selD | selE | selF => exact nomatch h
  | frameRx wf rsv payload ck =>
    obtain ⟨es, p, hchunk, ht⟩ := receiveChunk_next h
    exact .decoded p _ (by simp [Instr.sel]) (.of_rxChunk hchunk) ht
  | msgProductName wf rsv text ck =>
    obtain ⟨es, p, hchunk, _, ht⟩ := receiveAndDeliver_next h
    exact .delivered p es rfl (.of_rxChunk hchunk) ht
  | msgDistanceSample wf rsv first last angle extra ck =>
    obtain ⟨es, p, hchunk, _, ht⟩ := receiveAndDeliver_next h
    exact .delivered p es rfl (.of_rxChunk hchunk) ht
  | msgScanEnable => exact .sent _ (by simp [Instr.sel]) (Host.Outcome.next.inj h).symm

/-- Settles O34: each effect of an operation with a `sel` code writes its own state and no other. -/
theorem operationsWriteOnlyTheirState : Obligations.OperationsWriteOnlyTheirState := by
  intro i s t k hk h
  cases exec_effect h with
  | wroteCrc v hsel ht =>
    have hlow : ¬ 2 ≤ k.toNat := Nat.not_le.mpr (hsel k hk)
    simp [ht, hlow]
  | readChecksum v hsel ht => simp [ht]
  | sent bytes hsel ht =>
    have hmid : ¬ (k.toNat < 4 ∨ 9 < k.toNat) := by
      have := hsel k hk
      omega
    simp [ht, hmid]
  | decoded p r hsel hmove ht => simp [ht, (hsel k hk).2]
  | delivered p es hsel hmove ht => simp [hsel] at hk

/-! ### Every received byte keeps the invariant of ParserState -/

/-- `cnt` stays far below the end of its register: 1027 is the most R26 allows (R176). -/
theorem cnt_le_of_inv {c : Config} {p : ParserState} (h : p.Inv c) : p.cnt.toNat ≤ 1027 := by
  obtain ⟨hstart, hflags, hpayload, hchecksum⟩ := h.tag
  have hplen := p.plen.isLt
  cases hst : p.st with
  | waitStart => simp [hstart hst]
  | waitFlags => rcases (hflags hst).1 with hcnt | hcnt <;> simp [hcnt]
  | waitPayload =>
    obtain ⟨_, _, hlt, _⟩ := hpayload hst
    omega
  | waitChecksum =>
    obtain ⟨_, hlt, _⟩ := hchecksum hst
    omega

theorem inv_parserReset {c : Config} {p : ParserState} (hclear : p.overflowed = false) (hwf : p.buf.wf)
    (hrange : ∀ cell ∈ p.buf, cell.1 < c.bufCap) : p.parserReset.Inv c :=
  ParserState.inv_of_waitStart rfl rfl hclear hwf hrange

theorem inv_decReset {c : Config} {p : ParserState} (h : p.Inv c) : p.decReset.Inv c :=
  ParserState.inv_of_waitStart rfl rfl rfl h.wf h.inRange

theorem mem_stored_lt {c : Config} {p : ParserState} {b : Byte} (h : p.Inv c) (hcap : p.cnt.toNat < c.bufCap) :
    ∀ cell ∈ (p.stored b).buf, cell.1 < c.bufCap := by
  intro cell hcell
  rcases Memory.mem_put hcell with rfl | hcell
  · exact hcap
  · exact h.inRange cell hcell

/-- A store with room left keeps the buffer's part of the invariant; the tag's part is the rule's to show. -/
theorem inv_of_stored {c : Config} {p q : ParserState} {b : Byte} (h : p.Inv c) (hcap : p.cnt.toNat < c.bufCap)
    (hbuf : q.buf = (p.stored b).buf) (hcnt : q.cnt = (p.stored b).cnt) (hov : q.overflowed = p.overflowed)
    (htag : q.tagInv) : q.Inv c where
  tag := htag
  clear := hov.trans h.clear
  wf := hbuf ▸ Memory.put_wf h.wf _ _
  inRange := hbuf ▸ mem_stored_lt h hcap
  written := by
    intro i hi
    have hle := cnt_le_of_inv h
    rw [hcnt, stored_cnt_toNat b (by omega)] at hi
    rw [hbuf]
    rcases Nat.lt_succ_iff_lt_or_eq.mp hi with hi | rfl
    · rw [cell?_stored_of_ne b (Nat.ne_of_lt hi)]
      exact h.written i hi
    · simp [Memory.cell?_put_self]

/-- A store above the header leaves the decoded header what `buf` holds (R26 I3). -/
theorem headerDecoded_stored {p : ParserState} (b : Byte) (h : p.headerDecoded) (h3 : 3 ≤ p.cnt.toNat)
    (hlt : p.cnt.toNat < 2047) : (p.stored b).headerDecoded := by
  have hbyte (i : Nat) (hi : i < 3) : (p.stored b).byteAt i = p.byteAt i := byteAt_stored_of_lt b hlt (by omega)
  simpa [ParserState.headerDecoded, hbyte] using h

theorem tagInv_of_waitFlags {p : ParserState} (hst : p.st = .waitFlags) (hcnt : p.cnt = 1 ∨ p.cnt = 2)
    (h0 : p.byteAt 0 = startByte) : p.tagInv :=
  ⟨by simp [hst], fun _ => ⟨hcnt, h0⟩, by simp [hst], by simp [hst]⟩

theorem tagInv_of_waitPayload {p : ParserState} (hst : p.st = .waitPayload) (hge : 3 ≤ p.cnt.toNat)
    (hlt : p.cnt.toNat < 3 + p.plen.toNat) (hheader : p.headerDecoded) : p.tagInv :=
  ⟨by simp [hst], by simp [hst], fun _ => ⟨by omega, hge, hlt, hheader⟩, by simp [hst]⟩

theorem tagInv_of_waitChecksum {p : ParserState} (hst : p.st = .waitChecksum) (hge : 3 + p.plen.toNat ≤ p.cnt.toNat)
    (hlt : p.cnt.toNat < 5 + p.plen.toNat) (hheader : p.headerDecoded) : p.tagInv :=
  ⟨by simp [hst], by simp [hst], by simp [hst], fun _ => ⟨hge, hlt, hheader⟩⟩

/-- The second flags byte completes the header (R26 I3, I4 after R164). -/
theorem tagInv_flagsComplete {q : ParserState} (hcnt : q.cnt.toNat = 3) (h0 : q.byteAt 0 = startByte) :
    (flagsComplete q).2.tagInv := by
  rw [flagsComplete_eq]
  have hplen := flagsPlen_toNat (le16 (q.byteAt 1) (q.byteAt 2))
  by_cases hn : flagsPlenRaw (le16 (q.byteAt 1) (q.byteAt 2)) = 0
  · have hzero : (flagsPlen (le16 (q.byteAt 1) (q.byteAt 2))).toNat = 0 := by simp [hplen, hn]
    refine tagInv_of_waitChecksum (if_pos hn) ?_ ?_ ⟨h0, rfl, rfl⟩ <;> simp only [hzero, hcnt] <;> omega
  · have hpos : (flagsPlenRaw (le16 (q.byteAt 1) (q.byteAt 2))).toNat ≠ 0 := fun hzero => hn (BitVec.eq_of_toNat_eq hzero)
    refine tagInv_of_waitPayload (if_neg hn) ?_ ?_ ⟨h0, rfl, rfl⟩ <;> simp only [hplen, hcnt] <;> omega

/-- Under R26 and a legal configuration no byte overflows the buffer, and what its rule leaves satisfies R26 (R163 to R166,
R176). -/
theorem rxRule_keeps_inv {c : Config} {b : Byte} {p q : ParserState} {e : Event} (hc : c.legal) (hp : p.Inv c)
    (h : rxRule c b p = (e, q)) : q.Inv c := by
  have hle := cnt_le_of_inv hp
  have hlt : p.cnt.toNat < 2047 := by omega
  have hcap : p.cnt.toNat < c.bufCap := Nat.lt_of_le_of_lt hle hc
  have hcount := stored_cnt_toNat b hlt
  obtain ⟨hstart, hflags, hpayload, hchecksum⟩ := hp.tag
  rcases rxRule_cases h with ⟨_, _, _, rfl⟩ | ⟨hst, rfl, _, _, rfl⟩ | ⟨_, _, hzero, _⟩ | ⟨_, hfull, _⟩ |
    ⟨hst, _, hne, _, rfl⟩ | ⟨hst, _, h3, hq⟩ | ⟨hst, _, _, rfl⟩ | ⟨hst, _, hne, _, rfl⟩ | ⟨_, _, _, _, rfl⟩
  · exact hp
  · have hcnt := hstart hst
    have hp0 : ({ p with cnt := 0 } : ParserState) = p := by rw [← hcnt]
    have h0 : (p.stored startByte).byteAt 0 = startByte := by simpa [hcnt] using byteAt_stored_self startByte hlt
    rw [hp0]
    exact inv_of_stored hp hcap rfl rfl rfl (tagInv_of_waitFlags rfl (.inl (by simp [hcnt])) h0)
  · omega
  · omega
  · obtain ⟨hcnt, h0⟩ := hflags hst
    have hcnt1 : p.cnt = 1 := hcnt.resolve_right fun h2 => hne (by rw [hcount, h2]; rfl)
    have h0' := (byteAt_stored_of_lt b hlt (by simp [hcnt1])).trans h0
    exact inv_of_stored hp hcap rfl rfl rfl (tagInv_of_waitFlags hst (.inr (by simp [hcnt1])) h0')
  · obtain ⟨_, h0⟩ := hflags hst
    have h0' := (byteAt_stored_of_lt b hlt (by omega)).trans h0
    obtain rfl : q = (flagsComplete (p.stored b)).2 := congrArg Prod.snd hq
    exact inv_of_stored hp hcap (flagsComplete_buf _) (by rw [flagsComplete_eq]) (by rw [flagsComplete_eq]; rfl)
      (tagInv_flagsComplete h3 h0')
  · obtain ⟨_, hge, hbelow, hheader⟩ := hpayload hst
    have hheader' := headerDecoded_stored b hheader hge hlt
    split <;> rename_i hdone
    · refine inv_of_stored hp hcap rfl rfl rfl (tagInv_of_waitChecksum rfl hdone.ge ?_ hheader')
      exact hdone.trans_lt (by simp)
    · refine inv_of_stored hp hcap rfl rfl rfl (tagInv_of_waitPayload hst (by omega) ?_ hheader')
      exact Nat.lt_of_le_of_ne (by simp only [ParserState.stored_plen]; omega) hdone
  · obtain ⟨hge, hbelow, hheader⟩ := hchecksum hst
    have hheader' := headerDecoded_stored b hheader (by omega) hlt
    refine inv_of_stored hp hcap rfl rfl rfl (tagInv_of_waitChecksum hst ?_ ?_ hheader') <;>
      simp only [ParserState.stored_plen] <;> omega
  · exact inv_parserReset hp.clear (Memory.put_wf hp.wf _ _) (mem_stored_lt hp hcap)

theorem rxAll_keeps_inv {c : Config} {bytes : List Byte} {p q : ParserState} {es : List Event} (hc : c.legal)
    (hp : p.Inv c) (h : rxAll c bytes p = .ok (es, q)) : q.Inv c := by
  induction bytes generalizing p es with
  | nil =>
    obtain ⟨_, rfl⟩ := Prod.mk.inj (Except.ok.inj h)
    exact hp
  | cons b bytes ih =>
    obtain ⟨e, r, es', hbyte, hrest, _⟩ := rxAll_cons_ok h
    obtain ⟨_, hrule⟩ := rxByte_ok hbyte
    exact ih (rxRule_keeps_inv hc hp hrule) hrest

theorem ParserMove.keeps_inv {c : Config} {p q : ParserState} (h : ParserMove c p q) (hc : c.legal) (hp : p.Inv c) :
    q.Inv c := by
  cases h with
  | reset hq => exact hq ▸ inv_decReset hp
  | fed bytes es hrx => exact rxAll_keeps_inv hc hp hrx

/-! ### Every input keeps the invariant and the configuration -/

/-- What a state keeps when the next one has its configuration and a ParserState that satisfies R26. -/
theorem State.Inv.of_parser {s t : State} (hs : s.Inv) (hcfg : t.cfg = s.cfg) (hparser : t.parser.Inv s.cfg) :
    t.Inv ∧ t.cfg = s.cfg :=
  ⟨⟨hcfg ▸ hs.legal, hcfg ▸ hparser⟩, hcfg⟩

/-- What a state keeps when the next one has its configuration and its ParserState. -/
theorem State.Inv.of_parser_eq {s t : State} (hs : s.Inv) (hcfg : t.cfg = s.cfg) (hparser : t.parser = s.parser) :
    t.Inv ∧ t.cfg = s.cfg :=
  hs.of_parser hcfg (hparser ▸ hs.parser)

theorem delivered_keeps_inv {s : State} {p : ParserState} (hs : s.Inv) (hmove : ParserMove s.cfg s.parser p)
    (es : List Event) (r : Result) :
    (handOverAll es ((s.setParser p).answer r)).Inv ∧ (handOverAll es ((s.setParser p).answer r)).cfg = s.cfg := by
  obtain ⟨hcfg, hparser, _⟩ := handOverAll_frame es ((s.setParser p).answer r)
  exact hs.of_parser hcfg (hparser ▸ hmove.keeps_inv hs.legal hs.parser)

theorem exec_keeps_inv {i : Instr} {s t : State} (hs : s.Inv) (h : exec i s = .next t) : t.Inv ∧ t.cfg = s.cfg := by
  cases exec_effect h with
  | wroteCrc v hsel ht => exact hs.of_parser_eq (by simp [ht]) (by simp [ht])
  | readChecksum v hsel ht => exact hs.of_parser_eq (by simp [ht]) (by simp [ht])
  | sent bytes hsel ht => exact hs.of_parser_eq (by simp [ht]) (by simp [ht])
  | decoded p r hsel hmove ht =>
    exact hs.of_parser (by simp [ht]) (by simpa [ht] using hmove.keeps_inv hs.legal hs.parser)
  | delivered p es hsel hmove ht => exact ht ▸ delivered_keeps_inv hs hmove es _

theorem thenHandOver_keeps_inv {o : Host.Outcome State Fault Refusal} {s t : State}
    (ho : ∀ u, o = .next u → u.Inv ∧ u.cfg = s.cfg) (h : thenHandOver o = .next t) : t.Inv ∧ t.cfg = s.cfg := by
  obtain ⟨u, hu, rfl⟩ := thenHandOver_next h
  obtain ⟨hinv, hcfg⟩ := ho u hu
  obtain ⟨hcfg', hparser, _⟩ := handOverAll_frame u.result.eventList u
  exact hcfg ▸ hinv.of_parser_eq hcfg' hparser

theorem foldl_emitFrame_frame (commands : List CatalogStep) (s : State) :
    (commands.foldl (fun t step => t.emitFrame (catalogFrame t.cfg step)) s).cfg = s.cfg ∧
    (commands.foldl (fun t step => t.emitFrame (catalogFrame t.cfg step)) s).parser = s.parser := by
  induction commands generalizing s with
  | nil => exact ⟨rfl, rfl⟩
  | cons command commands ih => exact ih (s.emitFrame (catalogFrame s.cfg command))

@[simp] theorem sessionStart_cfg (s : State) : (sessionStart s).cfg = s.cfg := (foldl_emitFrame_frame catalogOrder s).1
@[simp] theorem sessionStart_parser (s : State) : (sessionStart s).parser = s.parser :=
  (foldl_emitFrame_frame catalogOrder s).2

/-- A `connect` issues a `DEC.RESET` or leaves ParserState alone, by whether the link opened (R211). -/
theorem connect_keeps_inv {s : State} (hs : s.Inv) (opened : Bool) :
    (connect opened s).Inv ∧ (connect opened s).cfg = s.cfg := by
  cases opened with
  | true => exact hs.of_parser (by simp [connect]) (by simpa [connect] using inv_decReset hs.parser)
  | false => exact hs.of_parser_eq rfl rfl

theorem poll_keeps_inv {s t : State} (hs : s.Inv) (h : poll s = .next t) : t.Inv ∧ t.cfg = s.cfg := by
  unfold poll at h
  split at h
  · obtain ⟨es, p, hchunk, _, rfl⟩ := receiveAndDeliver_next h
    exact delivered_keeps_inv (s := { s with rx := [] }) ⟨hs.legal, hs.parser⟩ (.of_rxChunk hchunk) es _
  · obtain rfl := Host.Outcome.next.inj h
    exact hs.of_parser_eq rfl rfl

theorem drainDistanceResults_keeps_inv {s t : State} (hs : s.Inv) (h : drainDistanceResults s = .next t) :
    t.Inv ∧ t.cfg = s.cfg := by
  unfold drainDistanceResults at h
  split at h
  · cases h
  · obtain rfl := Host.Outcome.next.inj h
    exact hs.of_parser_eq rfl rfl

theorem emitFrame_keeps_inv {s t : State} {bytes : List Byte} (hs : s.Inv)
    (h : (.next (s.emitFrame bytes) : Host.Outcome State Fault Refusal) = .next t) : t.Inv ∧ t.cfg = s.cfg := by
  obtain rfl := Host.Outcome.next.inj h
  exact hs.of_parser_eq rfl rfl

theorem serveCall_keeps_inv {call : HostCall} {s t : State} (hs : s.Inv) (h : serveCall call s = .next t) :
    t.Inv ∧ t.cfg = s.cfg := by
  cases call with
  | connect identifier baudRate opened =>
    obtain rfl := Host.Outcome.next.inj h
    exact connect_keeps_inv hs opened
  | poll => exact poll_keeps_inv hs h
  | drainDistanceResults => exact drainDistanceResults_keeps_inv hs h
  | sendGetProduct | sendWriteInt8 | sendWriteInt16 | sendWriteInt32 | sendWriteFloat | sendScanEnable | sendScanDisable
  | sendWritePosition => exact emitFrame_keeps_inv hs h

theorem arrive_keeps_inv {s : State} (hs : s.Inv) (bytes : List Byte) :
    (arrive bytes s).Inv ∧ (arrive bytes s).cfg = s.cfg := by
  unfold arrive
  split
  · exact hs.of_parser_eq rfl rfl
  · exact ⟨hs, rfl⟩

theorem serve_keeps_inv {input : Input} {s t : State} (hs : s.Inv) (h : serve input s = .next t) :
    t.Inv ∧ t.cfg = s.cfg := by
  cases input with
  | command bytes =>
    cases hdec : decode bytes with
    | ok decoded =>
      rw [serve_command_of_decode_ok hdec] at h
      exact thenHandOver_keeps_inv (fun u => exec_keeps_inv hs) h
    | error e =>
      rw [serve_command_of_decode_error hdec] at h
      cases h
  | call c => exact serveCall_keeps_inv hs h
  | arrive bytes =>
    obtain rfl := Host.Outcome.next.inj h
    exact arrive_keeps_inv hs bytes

/-- Settles O37: taking the input off the list leaves the block alone, and serving it keeps the invariant. -/
theorem everyStepKeepsInvariant : Obligations.EveryStepKeepsInvariant := by
  intro s t hs h
  cases hin : s.inputs with
  | nil =>
    obtain rfl : s = t := by simpa [step, hin] using h
    exact ⟨hs, rfl⟩
  | cons input rest =>
    rw [step_of_inputs_cons hin] at h
    exact serve_keeps_inv (s := { s with inputs := rest }) ⟨hs.legal, hs.parser⟩ h

end Sys2Proof.Machine

namespace Sys2Proof.Machine

/-! ### A full buffer -/

theorem append_of_full {c : Config} {p : ParserState} (b : Byte) (h : c.bufCap ≤ p.cnt.toNat) :
    p.append c b = .error .overflow := by
  rcases append_cases (c := c) (p := p) (b := b) rfl with ⟨_, happend⟩ | ⟨hroom, _⟩
  · exact happend
  · omega

/-- Every state but `WAIT_START` appends the byte it is given, so without room it answers `EV_OVERFLOW` (R233). -/
theorem rxRule_of_full {c : Config} {p : ParserState} (b : Byte) (hst : p.st ≠ .waitStart)
    (hfull : c.bufCap ≤ p.cnt.toNat) : rxRule c b p = (.overflow, { p with overflowed := true }) := by
  have happend := append_of_full b hfull
  cases h : p.st with
  | waitStart => exact absurd h hst
  | waitFlags => simp only [rxRule, h, rxWaitFlags, happend, takeOverflow]
  | waitPayload => simp only [rxRule, h, rxWaitPayload, happend, takeOverflow]
  | waitChecksum => simp only [rxRule, h, rxWaitChecksum, happend, takeOverflow]

/-- `WAIT_START` empties the count before it appends, so that only a buffer without any cell overflows there (R163). -/
theorem rxRule_waitStart_of_no_cell {c : Config} {p : ParserState} (hst : p.st = .waitStart) (hcap : c.bufCap = 0) :
    rxRule c startByte p = (.overflow, { p with cnt := 0, overflowed := true }) := by
  have happend := append_of_full (c := c) (p := { p with cnt := 0 }) startByte (by simp [hcap])
  have hrule : rxRule c startByte p = rxWaitStart c startByte p := by simp only [rxRule, hst]
  simp only [hrule, rxWaitStart, if_pos, happend, takeOverflow]

/-- A `DEC.RX` on a decoder with no overflow recorded is the rule of its state (R160). -/
theorem exec_decRx_of_rxRule {s : State} {b : Byte} {e : Event} {p : ParserState} (hclear : s.parser.overflowed = false)
    (hrule : rxRule s.cfg b s.parser = (e, p)) : exec (.decRx b) s = .next ((s.setParser p).answer (.event e)) := by
  simp only [exec, execDecRx, rxByte_eq hclear, hrule]

/-- Settles O29: the two arms of the guard, and what a rule answers when its append fails. -/
theorem appendIsGuarded : Obligations.AppendIsGuarded := by
  refine ⟨fun c p b hfull => append_of_full b hfull, fun c p b hroom => ?_, fun s b hclear hst hfull => ?_,
    fun s hclear hst hcap => ?_, rfl⟩
  · exact ⟨p.stored b, append_ok b hroom, rfl, Memory.cell?_put_self _ _ _, fun a ha => cell?_stored_of_ne b ha,
      rfl, rfl, rfl, rfl⟩
  · exact exec_decRx_of_rxRule hclear (rxRule_of_full b hst hfull)
  · exact exec_decRx_of_rxRule hclear (rxRule_waitStart_of_no_cell hst hcap)

/-! ### Runs of operations and their projections -/

theorem runOps_cons_of_next {i : Instr} {is : List Instr} {s u : State} (h : exec i s = .next u) :
    runOps (i :: is) s = (runOps is u).map fun r => (u.result :: r.1, r.2) := by
  simp only [runOps, h]

/-- A run that completes is its first operation and the run of the rest. -/
theorem runOps_cons_some {i : Instr} {is : List Instr} {s t : State} {rs : List Result}
    (h : runOps (i :: is) s = some (rs, t)) :
    ∃ u rs', exec i s = .next u ∧ runOps is u = some (rs', t) ∧ rs = u.result :: rs' := by
  cases hexec : exec i s with
  | next u =>
    rw [runOps_cons_of_next hexec] at h
    obtain ⟨⟨rs', t'⟩, hrest, heq⟩ := Option.map_eq_some_iff.mp h
    obtain ⟨rfl, rfl⟩ := Prod.mk.inj heq
    exact ⟨u, rs', rfl, hrest, rfl⟩
  | fault f => simp [runOps, hexec] at h
  | refused r => simp [runOps, hexec] at h

/-- One of the thirteen operations (R94). -/
def IsOperation (i : Instr) : Prop := ∃ k, i.sel = some k ∧ k.toNat ≤ 0xC

/-- A direction of the block (R61): the operations it keeps, and the relation of states that agree on all they read and
write. A kept operation answers alike in related states and leaves them related; one that is not kept does not leave the
relation. -/
structure IsDirection (keep : Instr → Bool) (related : State → State → Prop) : Prop where
  kept : ∀ {i s t u}, keep i = true → related s u → exec i s = .next t →
    ∃ v, exec i u = .next v ∧ v.result = t.result ∧ related t v
  dropped : ∀ {i s t u}, IsOperation i → keep i = false → related s u → exec i s = .next t → related t u

/-- Dropping the operations outside a direction from a run that completes changes no answer inside it. -/
theorem IsDirection.runOps_filter {keep : Instr → Bool} {related : State → State → Prop}
    (h : IsDirection keep related) {ops : List Instr} {s t u : State} {rs : List Result} (hops : ∀ i ∈ ops, IsOperation i)
    (hrel : related s u) (hrun : runOps ops s = some (rs, t)) :
    ∃ v, runOps (ops.filter keep) u = some (((ops.zip rs).filter fun x => keep x.1).map Prod.snd, v) ∧
      related t v := by
  induction ops generalizing s u rs with
  | nil =>
    obtain ⟨rfl, rfl⟩ := Prod.mk.inj (Option.some.inj hrun)
    exact ⟨u, rfl, hrel⟩
  | cons i ops ih =>
    obtain ⟨hi, hops⟩ := List.forall_mem_cons.mp hops
    obtain ⟨s', rs', hexec, hrest, rfl⟩ := runOps_cons_some hrun
    cases hkeep : keep i with
    | true =>
      obtain ⟨u', hexec', hresult, hrel'⟩ := h.kept hkeep hrel hexec
      obtain ⟨v, hrun', hv⟩ := ih hops hrel' hrest
      exact ⟨v, by simp [hkeep, runOps_cons_of_next hexec', hrun', hresult], hv⟩
    | false =>
      obtain ⟨v, hrun', hv⟩ := ih hops (h.dropped hi hkeep hrel hexec) hrest
      exact ⟨v, by simp [hkeep, hrun'], hv⟩

/-! ### The decoder's direction -/

/-- Two states agree on all that a decoder operation reads or writes. -/
def DecoderAlike (s u : State) : Prop := s.cfg = u.cfg ∧ s.parser = u.parser

/-- A decoder operation computes its answer and the next ParserState from the configuration and ParserState alone. -/
theorem exec_decoderAlike {i : Instr} {s t u : State} (hi : isDecoderOp i = true) (h : DecoderAlike s u)
    (hexec : exec i s = .next t) : ∃ v, exec i u = .next v ∧ v.result = t.result ∧ DecoderAlike t v := by
  obtain ⟨hcfg, hparser⟩ := h
  cases i with
  | decRx b =>
    obtain ⟨e, p, hbyte, rfl⟩ := execDecRx_next hexec
    rw [hcfg, hparser] at hbyte
    refine ⟨(u.setParser p).answer (.event e), ?_, rfl, hcfg, rfl⟩
    simp only [exec, execDecRx, hbyte]
  | decRxn bytes =>
    obtain ⟨es, p, hchunk, rfl⟩ := receiveChunk_next hexec
    rw [hcfg, hparser] at hchunk
    refine ⟨(u.setParser p).answer (.events es), ?_, rfl, hcfg, rfl⟩
    simp only [exec, execDecRxn, receiveChunk, hchunk]
  | decReset =>
    obtain rfl := Host.Outcome.next.inj hexec
    exact ⟨_, rfl, rfl, hcfg, congrArg ParserState.decReset hparser⟩
  | _ => exact nomatch hi

theorem decoder_isDirection : IsDirection isDecoderOp DecoderAlike where
  kept := exec_decoderAlike
  dropped := by
    intro i s t u ⟨k, hsel, _⟩ hother ⟨hcfg, hparser⟩ hexec
    obtain ⟨hparser', _, _, hcfg', _⟩ := operationsWriteOnlyTheirState i s t k hsel hexec
    exact ⟨hcfg'.trans hcfg, (hparser' hother).trans hparser⟩

/-! ### The direction of the encoder and the checksum engine -/

/-- Two states agree on all that an encoder or checksum operation reads or writes. -/
def EncoderAlike (s u : State) : Prop :=
  s.cfg = u.cfg ∧ s.crc = u.crc ∧ s.linkOpen = u.linkOpen ∧ s.tx = u.tx

theorem EncoderAlike.answer {s u : State} (h : EncoderAlike s u) (r : Result) :
    EncoderAlike (s.answer r) (u.answer r) := h

theorem EncoderAlike.setCrc {s u : State} (h : EncoderAlike s u) (v : Half) :
    EncoderAlike (s.setCrc v) (u.setCrc v) := by
  obtain ⟨hcfg, _, hlink, htx⟩ := h
  exact ⟨hcfg, rfl, hlink, htx⟩

theorem EncoderAlike.emitFrame {s u : State} (h : EncoderAlike s u) (bytes : List Byte) :
    EncoderAlike (s.emitFrame bytes) (u.emitFrame bytes) := by
  obtain ⟨hcfg, hcrc, hlink, htx⟩ := h
  exact ⟨hcfg, hcrc, hlink, by simp [hlink, htx]⟩

/-- An operation that sends the same frame from both states. -/
theorem EncoderAlike.sent {s t u : State} {bytes : List Byte} {o : Host.Outcome State Fault Refusal}
    (h : EncoderAlike s u) (ht : t = s.emitFrame bytes) (ho : o = .next (u.emitFrame bytes)) :
    ∃ v, o = .next v ∧ v.result = t.result ∧ EncoderAlike t v :=
  ⟨_, ho, by rw [ht]; rfl, ht ▸ h.emitFrame bytes⟩

/-- An encoder or checksum operation reads its operands, the configuration, `crc` and the link, and no ParserState. -/
theorem exec_encoderAlike {i : Instr} {s t u : State} (hi : isEncoderOrChecksumOp i = true) (h : EncoderAlike s u)
    (hexec : exec i s = .next t) : ∃ v, exec i u = .next v ∧ v.result = t.result ∧ EncoderAlike t v := by
  obtain ⟨hcfg, hcrc, _⟩ := id h
  cases i with
  | crcInit =>
    obtain rfl := Host.Outcome.next.inj hexec
    exact ⟨_, rfl, rfl, (h.setCrc 0).answer .none⟩
  | crcStep b =>
    obtain rfl := Host.Outcome.next.inj hexec
    exact ⟨_, rfl, rfl, hcrc ▸ (h.setCrc (crcStep s.crc b)).answer .none⟩
  | crcRead =>
    obtain rfl := Host.Outcome.next.inj hexec
    exact ⟨_, rfl, congrArg Result.checksum hcrc.symm, h⟩
  | crcBlock bytes =>
    obtain rfl := Host.Outcome.next.inj hexec
    exact ⟨_, rfl, rfl, h.answer _⟩
  | encFrame op wf val =>
    have hlen : ¬ 1022 < val.length := fun hlong => by simp [exec, execEncFrame, hlong] at hexec
    exact h.sent (execEncFrame_next hexec) (if_neg hlen)
  | encWr16 op v =>
    exact h.sent (Host.Outcome.next.inj hexec).symm (by simp only [exec, execEncWr16, hcfg])
  | encGet | encWr8 | encWr32 | encWrf => exact h.sent (Host.Outcome.next.inj hexec).symm rfl
  | _ => exact nomatch hi

/-- The `sel` codes outside the encoder and the checksum engine are those above 9 (R94). -/
theorem sel_gt_of_not_encoder {i : Instr} {k : BitVec 4} (hsel : i.sel = some k)
    (hother : isEncoderOrChecksumOp i = false) : 9 < k.toNat := by
  cases i with
  | decRx | decRxn | decReset | selD | selE | selF =>
    obtain rfl := Option.some.inj hsel
    decide
  | frameRx | msgProductName | msgDistanceSample | msgScanEnable => exact nomatch hsel
  | _ => exact nomatch hother

theorem encoder_isDirection : IsDirection isEncoderOrChecksumOp EncoderAlike where
  kept := exec_encoderAlike
  dropped := by
    intro i s t u ⟨k, hsel, _⟩ hother ⟨hcfg, hcrc, hlink, htx⟩ hexec
    have hdecoder := sel_gt_of_not_encoder hsel hother
    obtain ⟨_, hcrc', htx', hcfg', hlink', _⟩ := operationsWriteOnlyTheirState i s t k hsel hexec
    exact ⟨hcfg'.trans hcfg, (hcrc' (by omega)).trans hcrc, hlink'.trans hlink, (htx' (.inr hdecoder)).trans htx⟩

/-- Settles O33: each direction, projected from the run, starts in the same state. -/
theorem directionsAreIndependent : Obligations.DirectionsAreIndependent := by
  intro ops s t rs hops hrun
  obtain ⟨v, hdec, _, hparser⟩ := decoder_isDirection.runOps_filter hops ⟨rfl, rfl⟩ hrun
  obtain ⟨w, henc, _, hcrc, _, htx⟩ := encoder_isDirection.runOps_filter hops ⟨rfl, rfl, rfl, rfl⟩ hrun
  exact ⟨⟨v, hdec, hparser.symm⟩, w, henc, hcrc.symm, htx.symm⟩

end Sys2Proof.Machine

namespace Sys2Proof

open Sys2Proof.Machine

/-! ### The flags field of a frame -/

theorem bitVec_getElem_ofNat {w n i : Nat} (hi : i < w) : (BitVec.ofNat w n)[i] = n.testBit i := by
  rw [← BitVec.getLsbD_eq_getElem, BitVec.getLsbD_ofNat]
  simp [hi]

/-- Bit `i` of assembled flags (R81): the write flag, the reserved bits, the length from bit 6 up. -/
theorem getElem_packFlags (n : Nat) (rsv : BitVec 5) (wf : BitVec 1) {i : Nat} (hi : i < 16) :
    (packFlags n rsv wf)[i] = if i = 0 then wf[0] else if i < 6 then rsv.getLsbD (i - 1) else n.testBit (i - 6) := by
  have hwf : i ≠ 0 → wf.getLsbD i = false := fun h => BitVec.getLsbD_of_ge _ _ (by omega)
  have hrsv : ¬ i < 6 → rsv.getLsbD (i - 1) = false := fun h => BitVec.getLsbD_of_ge _ _ (by omega)
  simp only [packFlags, assembleFlags, BitVec.getElem_or, BitVec.getElem_shiftLeft, BitVec.getElem_setWidth]
  by_cases h0 : i = 0
  · simp [h0]
  by_cases h6 : i < 6
  · simp [h0, h6, hwf h0]
  · simp [h0, h6, hwf h0, hrsv h6, bitVec_getElem_ofNat]

@[simp] theorem flagsPlen_packFlags (n : Nat) (rsv : BitVec 5) (wf : BitVec 1) :
    flagsPlen (packFlags n rsv wf) = BitVec.ofNat 10 n := by
  ext i hi
  have h16 : 6 + i < 16 := by omega
  simp [flagsPlen, BitVec.getLsbD_eq_getElem h16, getElem_packFlags, bitVec_getElem_ofNat]

@[simp] theorem flagsReserved_packFlags (n : Nat) (rsv : BitVec 5) (wf : BitVec 1) :
    flagsReserved (packFlags n rsv wf) = rsv := by
  ext i hi
  have h16 : 1 + i < 16 := by omega
  have h6 : 1 + i < 6 := by omega
  simp [flagsReserved, BitVec.getLsbD_eq_getElem h16, getElem_packFlags, h6, hi]

@[simp] theorem flagsWriteFlag_packFlags (n : Nat) (rsv : BitVec 5) (wf : BitVec 1) :
    flagsWriteFlag (packFlags n rsv wf) = wf := by
  ext i hi
  obtain rfl : i = 0 := by omega
  simp [flagsWriteFlag, getElem_packFlags]

/-- A payload that fits the length field is not shortened by it (R83). -/
theorem flagsPlen_packFlags_toNat {n : Nat} (rsv : BitVec 5) (wf : BitVec 1) (hn : n ≤ 1023) :
    (flagsPlen (packFlags n rsv wf)).toNat = n := by
  rw [flagsPlen_packFlags, BitVec.toNat_ofNat]
  exact Nat.mod_eq_of_lt (by omega)

/-- The three fields make up the whole flags word (R81). -/
theorem packFlags_of_flags (flags : Half) :
    packFlags (flagsPlen flags).toNat (flagsReserved flags) (flagsWriteFlag flags) = flags := by
  ext i hi
  rw [getElem_packFlags]
  split
  · next h0 => simp [h0, flagsWriteFlag]
  split
  · next h0 h6 =>
    have h1 : 1 + (i - 1) = i := by omega
    have h5 : i - 1 < 5 := by omega
    simp [flagsReserved, h1, h5, hi]
  · next h0 h6 =>
    have h1 : 6 + (i - 6) = i := by omega
    have h10 : i - 6 < 10 := by omega
    rw [BitVec.testBit_toNat]
    simp [flagsPlen, h1, h10, hi]

/-! ### The rows a frame can belong to -/

theorem isScanEnableFrame_iff {wf : BitVec 1} {rsv : BitVec 5} {payload : List Byte} {ck : Half} :
    isScanEnableFrame wf rsv payload ck = true ↔
      wf = 1 ∧ rsv = 0 ∧ payload = [opcScanEnable, 1] ∧ ck = 0xDC4D := by
  simp [isScanEnableFrame, and_assoc]

theorem isProductNamePayload_iff {payload : List Byte} :
    isProductNamePayload payload = true ↔ ∃ text, payload = opcProductName :: text ∧ text.length = 16 := by
  cases payload <;> simp [isProductNamePayload, and_comm]

theorem exists_bytesLe16_append {bytes : List Byte} (h : 2 ≤ bytes.length) :
    ∃ v rest, bytes = bytesLe16 v ++ rest := by
  obtain _ | ⟨b0, _ | ⟨b1, rest⟩⟩ := bytes
  · simp at h
  · simp at h
  · exact ⟨le16 b0 b1, rest, by simp [bytesLe16, lo8_le16, hi8_le16]⟩

/-- Six bytes and what follows are the three little-endian fields and the further data (R96). -/
theorem isDistancePayload_iff {payload : List Byte} :
    isDistancePayload payload = true ↔ ∃ first last angle extra, payload = distancePayload first last angle extra := by
  constructor
  · intro h
    cases payload with
    | nil => exact nomatch h
    | cons op data =>
      obtain ⟨rfl, hlen⟩ : op = opcDistance ∧ 6 ≤ data.length := by simpa [isDistancePayload] using h
      obtain ⟨first, data, rfl⟩ := exists_bytesLe16_append (bytes := data) (by omega)
      rw [List.length_append, bytesLe16_length] at hlen
      obtain ⟨last, data, rfl⟩ := exists_bytesLe16_append (bytes := data) (by omega)
      rw [List.length_append, bytesLe16_length] at hlen
      obtain ⟨angle, extra, rfl⟩ := exists_bytesLe16_append (bytes := data) (by omega)
      exact ⟨first, last, angle, extra, by simp [distancePayload]⟩
  · rintro ⟨first, last, angle, extra, rfl⟩
    simp [isDistancePayload, distancePayload]
    omega

@[simp] theorem distancePayload_length (first last angle : Half) (extra : List Byte) :
    (distancePayload first last angle extra).length = extra.length + 7 := by
  simp [distancePayload]
  omega

/-- The rows of the table that are wire formats (R80, R96), each with the fields of the frames it stands for; the general
row takes the frames that no message row takes (log entry 1). `wireInstr` is this relation as a function. -/
inductive WireRow : BitVec 1 → BitVec 5 → List Byte → Half → Instr → Prop where
  | scanEnable : WireRow 1 0 [opcScanEnable, 1] 0xDC4D .msgScanEnable
  | productName {wf : BitVec 1} {rsv : BitVec 5} {text : List Byte} {ck : Half} (hlen : text.length = 16) :
    WireRow wf rsv (opcProductName :: text) ck (.msgProductName wf rsv text ck)
  | distanceSample {wf : BitVec 1} {rsv : BitVec 5} {first last angle : Half} {extra : List Byte} {ck : Half} :
    WireRow wf rsv (distancePayload first last angle extra) ck (.msgDistanceSample wf rsv first last angle extra ck)
  | frame {wf : BitVec 1} {rsv : BitVec 5} {payload : List Byte} {ck : Half}
    (hscan : isScanEnableFrame wf rsv payload ck = false) (hname : isProductNamePayload payload = false)
    (hdistance : isDistancePayload payload = false) : WireRow wf rsv payload ck (.frameRx wf rsv payload ck)

section

variable {wf : BitVec 1} {rsv : BitVec 5} {payload : List Byte} {ck : Half} {i : Instr}

theorem wireInstr_of_other (hscan : isScanEnableFrame wf rsv payload ck = false)
    (hname : isProductNamePayload payload = false)
    (hdistance : isDistancePayload payload = false) : wireInstr wf rsv payload ck = .frameRx wf rsv payload ck := by
  simp only [wireInstr, hscan, hname, Bool.false_eq_true, if_false]
  split
  · next op f0 f1 l0 l1 a0 a1 extra =>
    exact if_neg (by simpa [isDistancePayload] using hdistance)
  · rfl

/-- The rows exclude one another, so a frame of a row decodes to that row. -/
theorem WireRow.wireInstr_eq (h : WireRow wf rsv payload ck i) : wireInstr wf rsv payload ck = i := by
  cases h with
  | scanEnable => rfl
  | productName hlen =>
    simp [wireInstr, isScanEnableFrame, isProductNamePayload, hlen]
  | distanceSample =>
    simp [wireInstr, isScanEnableFrame, isProductNamePayload, distancePayload, bytesLe16, le16_lo8_hi8]
  | frame hscan hname hdistance => exact wireInstr_of_other hscan hname hdistance

/-- Every frame belongs to a row. -/
theorem wireRow_exists (wf : BitVec 1) (rsv : BitVec 5) (payload : List Byte) (ck : Half) :
    ∃ i, WireRow wf rsv payload ck i := by
  cases hscan : isScanEnableFrame wf rsv payload ck with
  | true =>
    obtain ⟨rfl, rfl, rfl, rfl⟩ := isScanEnableFrame_iff.mp hscan
    exact ⟨_, .scanEnable⟩
  | false =>
    cases hname : isProductNamePayload payload with
    | true =>
      obtain ⟨text, rfl, hlen⟩ := isProductNamePayload_iff.mp hname
      exact ⟨_, .productName hlen⟩
    | false =>
      cases hdistance : isDistancePayload payload with
      | true =>
        obtain ⟨first, last, angle, extra, rfl⟩ := isDistancePayload_iff.mp hdistance
        exact ⟨_, .distanceSample⟩
      | false => exact ⟨_, .frame hscan hname hdistance⟩

theorem wireRow_wireInstr (wf : BitVec 1) (rsv : BitVec 5) (payload : List Byte) (ck : Half) :
    WireRow wf rsv payload ck (wireInstr wf rsv payload ck) := by
  obtain ⟨i, hrow⟩ := wireRow_exists wf rsv payload ck
  rwa [hrow.wireInstr_eq]

theorem WireRow.sel_eq_none (h : WireRow wf rsv payload ck i) : i.sel = none := by
  cases h <;> rfl

theorem WireRow.encode_eq (h : WireRow wf rsv payload ck i) : encode i = wireBytes wf rsv payload ck := by
  cases h <;> rfl

/-- A row's operation is well formed exactly when its payload fits the length field (R80, R83). -/
theorem WireRow.wellFormed_iff (h : WireRow wf rsv payload ck i) :
    i.wellFormed = true ↔ payload.length ≤ 1023 := by
  cases h with
  | scanEnable => decide
  | productName hlen => simp [Instr.wellFormed, hlen]
  | distanceSample => simp [Instr.wellFormed]
  | frame hscan hname hdistance => simp [Instr.wellFormed, hscan, hname, hdistance]

end

/-- A well-formed operation without a `sel` code is the row of some frame (R94, R96). -/
theorem wireRow_of_wellFormed {i : Instr} (hsel : i.sel = none) (hwf : i.wellFormed = true) :
    ∃ wf rsv payload ck, WireRow wf rsv payload ck i := by
  cases i with
  | frameRx wf rsv payload ck =>
    simp only [Instr.wellFormed, Bool.and_eq_true, Bool.not_eq_true'] at hwf
    obtain ⟨⟨⟨_, hname⟩, hdistance⟩, hscan⟩ := hwf
    exact ⟨_, _, _, _, .frame hscan hname hdistance⟩
  | msgProductName wf rsv text ck => exact ⟨_, _, _, _, .productName (by simpa [Instr.wellFormed] using hwf)⟩
  | msgDistanceSample => exact ⟨_, _, _, _, .distanceSample⟩
  | msgScanEnable => exact ⟨_, _, _, _, .scanEnable⟩
  | _ => exact nomatch hsel

/-! ### Frames on the wire: decoding and encoding are inverse -/

theorem decode_wireBytes {wf : BitVec 1} {rsv : BitVec 5} {payload : List Byte} (ck : Half) (rest : List Byte)
    (hlen : payload.length ≤ 1023) :
    decode (wireBytes wf rsv payload ck ++ rest) = .ok (wireInstr wf rsv payload ck, rest) := by
  simp only [wireBytes, List.cons_append, List.append_assoc, decode, if_pos, decodeWire, readHalf_bytesLe16, withOperand_ok,
    flagsPlen_packFlags_toNat rsv wf hlen, readBytes_append, flagsWriteFlag_packFlags, flagsReserved_packFlags]

theorem decode_encode_wire {i : Instr} (rest : List Byte) (hsel : i.sel = none) (hwf : i.wellFormed = true) :
    decode (encode i ++ rest) = .ok (i, rest) := by
  obtain ⟨wf, rsv, payload, ck, hrow⟩ := wireRow_of_wellFormed hsel hwf
  rw [hrow.encode_eq, decode_wireBytes ck rest (hrow.wellFormed_iff.mp hwf), hrow.wireInstr_eq]

/-! ### What the operand readers took -/

theorem withOperand_eq_ok {α : Type} {r : Except DecodeError (α × List Byte)}
    {f : α → List Byte → Except DecodeError (Instr × List Byte)} {x : Instr × List Byte} (h : withOperand r f = .ok x) :
    ∃ a rest, r = .ok (a, rest) ∧ f a rest = .ok x := by
  match r, h with
  | .ok (a, rest), h => exact ⟨a, rest, rfl, h⟩

theorem readHalf_eq_ok {bytes rest : List Byte} {v : Half} (h : readHalf bytes = .ok (v, rest)) :
    bytes = bytesLe16 v ++ rest := by
  match bytes, h with
  | b0 :: b1 :: _, h =>
    obtain ⟨rfl, rfl⟩ := Prod.mk.inj (Except.ok.inj h)
    simp [bytesLe16, lo8_le16, hi8_le16]

theorem readBytes_eq_ok {n : Nat} {bytes taken rest : List Byte} (h : readBytes n bytes = .ok (taken, rest)) :
    taken.length = n ∧ bytes = taken ++ rest := by
  induction n generalizing bytes taken with
  | zero =>
    obtain ⟨rfl, rfl⟩ := Prod.mk.inj (Except.ok.inj h)
    exact ⟨rfl, rfl⟩
  | succ n ih =>
    cases bytes with
    | nil => exact nomatch h
    | cons b bytes =>
      unfold readBytes at h
      split at h
      · next taken' rest' hread =>
        obtain ⟨rfl, rfl⟩ := Prod.mk.inj (Except.ok.inj h)
        obtain ⟨rfl, rfl⟩ := ih hread
        exact ⟨rfl, rfl⟩
      · exact nomatch h

/-- Bytes that decode as a frame are the bytes of its fields, whose length field holds at most 1023 (R80, R81, R83). -/
theorem decodeWire_eq_ok {bytes tail : List Byte} {i : Instr} (h : decodeWire bytes = .ok (i, tail)) :
    ∃ wf rsv payload ck, payload.length ≤ 1023 ∧ WireRow wf rsv payload ck i ∧
      wireBytes wf rsv payload ck ++ tail = startByte :: bytes := by
  obtain ⟨flags, r1, hflags, h⟩ := withOperand_eq_ok h
  obtain ⟨payload, r2, hpayload, h⟩ := withOperand_eq_ok h
  obtain ⟨ck, r3, hck, h⟩ := withOperand_eq_ok h
  obtain ⟨rfl, rfl⟩ := Prod.mk.inj (Except.ok.inj h)
  obtain ⟨hlen, rfl⟩ := readBytes_eq_ok hpayload
  have hmax := (flagsPlen flags).isLt
  refine ⟨_, _, payload, ck, by omega, wireRow_wireInstr .., ?_⟩
  rw [readHalf_eq_ok hflags, readHalf_eq_ok hck, wireBytes, hlen, packFlags_of_flags]
  simp

/-- Settles O45: the frame's row has no `sel` code, is well formed and encodes to the frame's bytes. -/
theorem wireBytesHaveOneMeaning : Obligations.WireBytesHaveOneMeaning := by
  intro bytes tail i h
  obtain ⟨wf, rsv, payload, ck, hlen, hrow, hbytes⟩ := decodeWire_eq_ok h
  exact ⟨hrow.sel_eq_none, hrow.wellFormed_iff.mpr hlen, by rw [hrow.encode_eq, hbytes]⟩

/-! ### The command port -/

/-- The four bytes of a word are its value again, byte by byte (R14). -/
theorem le32_bytes (v : Word) :
    le32 (v.setWidth 8) ((v >>> 8).setWidth 8) ((v >>> 16).setWidth 8) ((v >>> 24).setWidth 8) = v := by
  ext i hi
  have hbyte : i < 8 ∨ (8 ≤ i ∧ i < 16) ∨ (16 ≤ i ∧ i < 24) ∨ 24 ≤ i := by omega
  simp only [le32, BitVec.getElem_or, BitVec.getElem_shiftLeft, BitVec.getElem_setWidth, BitVec.getLsbD_setWidth,
    BitVec.getLsbD_ushiftRight]
  grind

theorem readWord_bytesLe32 (v : Word) (rest : List Byte) : readWord (bytesLe32 v ++ rest) = .ok (v, rest) := by
  simp [bytesLe32, readWord, le32_bytes]

theorem readWriteFlag_setWidth (wf : BitVec 1) (rest : List Byte) :
    readWriteFlag (wf.setWidth 8 :: rest) = .ok (wf, rest) := by
  obtain rfl | rfl : wf = 0 ∨ wf = 1 := by revert wf; decide
  · rfl
  · rfl

theorem decode_of_select {b : Byte} (bytes : List Byte) (hb : b ≠ startByte) :
    decode (b :: bytes) = decodeCommand (b.setWidth 4) bytes := if_neg hb

/-- Settles O44: each `sel` code chooses its row by evaluation and every operand reader takes back its operand; a wire format
is the row of its own frame. -/
theorem decodeTakesBackEncode : Obligations.DecodeTakesBackEncode := by
  intro i rest hwf
  cases i with
  | crcInit | crcStep | crcRead | encGet | encWr8 | decRx | decReset | selD | selE | selF => rfl
  | crcBlock s | decRxn s =>
    show withOperand (readSeq (encodeSeq s ++ rest)) _ = _
    rw [readSeq_encodeSeq, withOperand_ok]
  | encFrame op wf val =>
    show withOperand (readWriteFlag (wf.setWidth 8 :: (encodeSeq val ++ rest))) _ = _
    rw [readWriteFlag_setWidth, withOperand_ok, readSeq_encodeSeq, withOperand_ok]
  | encWr16 op v =>
    show withOperand (readHalf (bytesLe16 v ++ rest)) (fun v rest => .ok (.encWr16 op v, rest)) = _
    rw [readHalf_bytesLe16, withOperand_ok]
  | encWr32 op v =>
    show withOperand (readWord (bytesLe32 v ++ rest)) (fun v rest => .ok (.encWr32 op v, rest)) = _
    rw [readWord_bytesLe32, withOperand_ok]
  | encWrf op p =>
    show withOperand (readWord (bytesLe32 p ++ rest)) (fun p rest => .ok (.encWrf op p, rest)) = _
    rw [readWord_bytesLe32, withOperand_ok]
  | frameRx | msgProductName | msgDistanceSample | msgScanEnable => exact decode_encode_wire rest rfl hwf

/-- An outcome of decoding that is an error or an operation with this `sel` code (R94). -/
def Selects (sel : BitVec 4) (r : Except DecodeError (Instr × List Byte)) : Prop :=
  ∀ i tail, r = .ok (i, tail) → i.sel = some sel

theorem Selects.ok {sel : BitVec 4} {i : Instr} (h : i.sel = some sel) (tail : List Byte) : Selects sel (.ok (i, tail)) := by
  rintro _ _ ⟨⟩
  exact h

theorem Selects.withOperand {α : Type} {sel : BitVec 4} {r : Except DecodeError (α × List Byte)}
    {f : α → List Byte → Except DecodeError (Instr × List Byte)} (h : ∀ a rest, Selects sel (f a rest)) :
    Selects sel (withOperand r f) := by
  intro i tail hok
  obtain ⟨a, rest, _, hf⟩ := withOperand_eq_ok hok
  exact h a rest i tail hf

theorem decodeCommand_selects (sel : BitVec 4) (bytes : List Byte) : Selects sel (decodeCommand sel bytes) := by
  obtain ⟨n, hn⟩ := sel
  match n, hn with
  | 0, _ | 2, _ | 12, _ | 13, _ | 14, _ | 15, _ => exact .ok rfl _
  | 1, _ | 3, _ | 5, _ | 10, _ | 11, _ => exact .withOperand fun _ _ => .ok rfl _
  | 6, _ | 7, _ | 8, _ | 9, _ => exact .withOperand fun _ _ => .withOperand fun _ _ => .ok rfl _
  | 4, _ => exact .withOperand fun _ _ => .withOperand fun _ _ => .withOperand fun _ _ => .ok rfl _
  | _ + 16, hlarge => exact absurd hlarge (by omega)

/-- Settles O46: what follows the select byte is read by `decodeCommand` on its low four bits. -/
theorem selectBitsChooseOperation : Obligations.SelectBitsChooseOperation := by
  intro b bytes tail i hb h
  rw [decode_of_select bytes hb, BitVec.setWidth_eq_extractLsb' (by decide)] at h
  exact decodeCommand_selects _ bytes i tail h

/-- Settles O47: the first six words are encodings, which O44 takes back; the last is a select byte padded with zeros. -/
theorem tableWordsDecode : Obligations.TableWordsDecode :=
  ⟨decodeTakesBackEncode .crcRead [] rfl, decodeTakesBackEncode (.encWr16 0x05 0x1234) [] rfl,
    decodeTakesBackEncode (.decRx 0xAA) [] rfl, decodeTakesBackEncode (.frameRx 0 0 [0x00] 0x9F70) [] rfl,
    decodeTakesBackEncode (.msgDistanceSample 0 0 500 500 0 [] 0x8D1D) [] rfl,
    decodeTakesBackEncode .msgScanEnable [] rfl, rfl⟩

end Sys2Proof

namespace Sys2Proof.Machine

/-! ### A decoder in the middle of a frame -/

/-- The buffer after bytes are written to it from index 0 on. -/
def Memory.putAll (m : Memory) (bytes : List Byte) : Memory :=
  bytes.zipIdx.foldl (fun cells x => cells.put x.2 x.1) m

theorem Memory.putAll_concat (m : Memory) (bytes : List Byte) (b : Byte) :
    m.putAll (bytes ++ [b]) = (m.putAll bytes).put bytes.length b := by
  simp [Memory.putAll, List.zipIdx_append]

theorem Memory.cell?_putAll (m : Memory) (bytes : List Byte) (a : Nat) :
    (m.putAll bytes).cell? a = bytes[a]?.or (m.cell? a) := by
  induction bytes using List.reverseRecOn with
  | nil => simp [Memory.putAll]
  | append_singleton bytes b ih =>
    rw [Memory.putAll_concat]
    by_cases ha : a = bytes.length
    · simp [ha, Memory.cell?_put_self]
    · have hsame : (bytes ++ [b])[a]? = bytes[a]? := by
        rcases Nat.lt_or_gt_of_ne ha with hlt | hgt
        · exact List.getElem?_append_left hlt
        · rw [List.getElem?_eq_none (by simpa using hgt), List.getElem?_eq_none hgt.le]
      rw [Memory.cell?_put_of_ne _ _ ha, ih, hsame]

/-- ParserState after the bytes `got` of a frame, over the buffer `old` (R21, R22): all of them stored from index 0 on. -/
def ParserState.receiving (old : Memory) (st : DecState) (plen : BitVec 10) (wflag : BitVec 1) (got : List Byte) :
    ParserState :=
  { st, cnt := BitVec.ofNat 11 got.length, plen, wflag, buf := old.putAll got, overflowed := false }

section

variable {old : Memory} {st : DecState} {plen : BitVec 10} {wflag : BitVec 1} {got : List Byte}

@[simp] theorem receiving_plen : (ParserState.receiving old st plen wflag got).plen = plen := rfl
@[simp] theorem receiving_wflag : (ParserState.receiving old st plen wflag got).wflag = wflag := rfl

theorem receiving_cnt_toNat (hlen : got.length < 2048) :
    (ParserState.receiving old st plen wflag got).cnt.toNat = got.length := by
  simpa [ParserState.receiving] using hlen

theorem receiving_stored (b : Byte) (hlen : got.length < 2048) :
    (ParserState.receiving old st plen wflag got).stored b = .receiving old st plen wflag (got ++ [b]) := by
  have hcnt : BitVec.ofNat 11 got.length + 1 = BitVec.ofNat 11 (got ++ [b]).length := by
    rw [List.length_append, BitVec.ofNat_add]
    rfl
  simp only [ParserState.stored, receiving_cnt_toNat hlen]
  simp only [ParserState.receiving, hcnt, Memory.putAll_concat]

theorem receiving_byteAt {i : Nat} (hlen : got.length < 2048) (hi : i < got.length) :
    (ParserState.receiving old st plen wflag got).byteAt i = got[i] := by
  rw [byteAt_of_lt (by rwa [receiving_cnt_toNat hlen])]
  simp [ParserState.receiving, Memory.cell?_putAll, hi]

theorem receiving_bytesTo {n : Nat} (hlen : got.length < 2048) (hn : n ≤ got.length) :
    (ParserState.receiving old st plen wflag got).bytesTo n = got.take n := by
  apply List.ext_getElem
  · simp [ParserState.bytesTo, hn]
  · intro i hi _
    have hin : i < n := by simpa [ParserState.bytesTo] using hi
    simp [ParserState.bytesTo, receiving_byteAt hlen (hin.trans_le hn)]

end

/-! ### The bytes of one frame, from the start byte to the verdict -/

/-- Two chunks that answer, one after the other (R169). -/
theorem rxAll_append {c : Config} {xs ys : List Byte} {p q r : ParserState} {es fs : List Event}
    (hxs : rxAll c xs p = .ok (es, q)) (hys : rxAll c ys q = .ok (fs, r)) : rxAll c (xs ++ ys) p = .ok (es ++ fs, r) := by
  induction xs generalizing p es with
  | nil =>
    obtain ⟨rfl, rfl⟩ := Prod.mk.inj (Except.ok.inj hxs)
    exact hys
  | cons b xs ih =>
    obtain ⟨e, r', es', hbyte, hrest, rfl⟩ := rxAll_cons_ok hxs
    rw [List.cons_append, rxAll_cons hbyte, ih hrest]
    rfl

/-- The decoder's state once the header is decoded, by the number of payload bytes still to come (R164, R165, R174). -/
def DecState.awaiting (missing : Nat) : DecState := if missing = 0 then .waitChecksum else .waitPayload

section

variable {c : Config} {old : Memory} {st : DecState} {plen : BitVec 10} {wflag : BitVec 1} {got : List Byte}

/-- Under a legal configuration no byte of a frame finds the buffer full (R176). -/
theorem receiving_append (hc : c.legal) (b : Byte) (hlen : got.length < 1028) :
    (ParserState.receiving old st plen wflag got).append c b = .ok (.receiving old st plen wflag (got ++ [b])) := by
  have h2048 : got.length < 2048 := by omega
  have hcap : got.length < c.bufCap := Nat.lt_of_lt_of_le hlen hc
  rw [append_ok b (by rwa [receiving_cnt_toNat h2048]), receiving_stored b h2048]

theorem receiving_append_cnt (b : Byte) (hlen : got.length < 1028) :
    (ParserState.receiving old st plen wflag (got ++ [b])).cnt.toNat = got.length + 1 := by
  have hgot : (got ++ [b]).length = got.length + 1 := List.length_append
  rw [receiving_cnt_toNat (by omega), hgot]

/-- `WAIT_FLAGS` within a frame (R164). -/
theorem rxByte_waitFlags (hc : c.legal) (b : Byte) (hlen : got.length < 1028) :
    rxByte c b (.receiving old .waitFlags plen wflag got) =
      .ok (if got.length + 1 = 3 then flagsComplete (.receiving old .waitFlags plen wflag (got ++ [b]))
        else (.none, .receiving old .waitFlags plen wflag (got ++ [b]))) := by
  refine (rxByte_eq rfl).trans (congrArg Except.ok ?_)
  change rxWaitFlags c b (.receiving old .waitFlags plen wflag got) = _
  simp only [rxWaitFlags, receiving_append hc b hlen, receiving_append_cnt b hlen]

/-- `WAIT_PAYLOAD` within a frame (R165). -/
theorem rxByte_waitPayload (hc : c.legal) (b : Byte) (hlen : got.length < 1028) :
    rxByte c b (.receiving old .waitPayload plen wflag got) =
      .ok (.none, if got.length + 1 = 3 + plen.toNat then .receiving old .waitChecksum plen wflag (got ++ [b])
        else .receiving old .waitPayload plen wflag (got ++ [b])) := by
  refine (rxByte_eq rfl).trans (congrArg Except.ok ?_)
  change rxWaitPayload c b (.receiving old .waitPayload plen wflag got) = _
  simp only [rxWaitPayload, receiving_append hc b hlen, receiving_append_cnt b hlen]
  rfl

/-- `WAIT_CHECKSUM` within a frame (R166). -/
theorem rxByte_waitChecksum (hc : c.legal) (b : Byte) (hlen : got.length < 1028) :
    rxByte c b (.receiving old .waitChecksum plen wflag got) =
      .ok (if got.length + 1 = 5 + plen.toNat then
          takeEvent (frameVerdict (.receiving old .waitChecksum plen wflag (got ++ [b])))
            (.receiving old .waitChecksum plen wflag (got ++ [b]))
        else (.none, .receiving old .waitChecksum plen wflag (got ++ [b]))) := by
  refine (rxByte_eq rfl).trans (congrArg Except.ok ?_)
  change rxWaitChecksum c b (.receiving old .waitChecksum plen wflag got) = _
  simp only [rxWaitChecksum, receiving_append hc b hlen, receiving_append_cnt b hlen]
  rfl

/-- The start byte, from any `WAIT_START` (R163). -/
theorem rxByte_startByte {p : ParserState} (hc : c.legal) (hclear : p.overflowed = false) (hst : p.st = .waitStart) :
    rxByte c startByte p = .ok (.none, .receiving p.buf .waitFlags p.plen p.wflag [startByte]) := by
  have hcap : ({ p with cnt := 0 } : ParserState).cnt.toNat < c.bufCap := Nat.lt_of_lt_of_le (by simp) hc
  have hrule : rxRule c startByte p = rxWaitStart c startByte p := by simp only [rxRule, hst]
  rw [rxByte_eq hclear, hrule]
  simp only [rxWaitStart, if_pos, append_ok startByte hcap]
  simp only [ParserState.stored, hclear]
  rfl

/-- The two flags bytes decode the header; only the number of payload bytes chooses the next state (R164, R174). -/
theorem rxAll_flags (hc : c.legal) (b0 f1 f2 : Byte) :
    rxAll c [f1, f2] (.receiving old .waitFlags plen wflag [b0]) =
      .ok ([.none, .none], .receiving old (.awaiting (flagsPlen (le16 f1 f2)).toNat) (flagsPlen (le16 f1 f2))
        (flagsWriteFlag (le16 f1 f2)) [b0, f1, f2]) := by
  have hb1 : (ParserState.receiving old .waitFlags plen wflag [b0, f1, f2]).byteAt 1 = f1 :=
    receiving_byteAt (by simp) (by simp)
  have hb2 : (ParserState.receiving old .waitFlags plen wflag [b0, f1, f2]).byteAt 2 = f2 :=
    receiving_byteAt (by simp) (by simp)
  have hzero : flagsPlenRaw (le16 f1 f2) = 0 ↔ (flagsPlen (le16 f1 f2)).toNat = 0 := by
    rw [flagsPlen_toNat, BitVec.toNat_eq]
    rfl
  have hfirst : rxByte c f1 (.receiving old .waitFlags plen wflag [b0]) =
      .ok (.none, .receiving old .waitFlags plen wflag [b0, f1]) := rxByte_waitFlags hc f1 (by simp)
  have hsecond : rxByte c f2 (.receiving old .waitFlags plen wflag [b0, f1]) =
      .ok (flagsComplete (.receiving old .waitFlags plen wflag [b0, f1, f2])) := rxByte_waitFlags hc f2 (by simp)
  rw [flagsComplete_eq, hb1, hb2] at hsecond
  rw [rxAll_cons hfirst, rxAll_cons hsecond]
  simp only [ParserState.receiving, DecState.awaiting, hzero]
  rfl

/-- The payload is stored without an answer, whatever its bytes are (R165, R174). -/
theorem rxAll_payload {payload : List Byte} (hc : c.legal) (hlen : got.length + payload.length = 3 + plen.toNat) :
    rxAll c payload (.receiving old (.awaiting payload.length) plen wflag got) =
      .ok (List.replicate payload.length .none, .receiving old .waitChecksum plen wflag (got ++ payload)) := by
  have hplen := plen.isLt
  induction payload generalizing got with
  | nil => simp [DecState.awaiting]
  | cons b payload ih =>
    rw [List.length_cons] at hlen
    have hgot : (got ++ [b]).length + payload.length = 3 + plen.toNat := by
      rw [List.length_append, List.length_singleton]
      omega
    have hlast : got.length + 1 = 3 + plen.toNat ↔ payload.length = 0 := by omega
    have hbyte : rxByte c b (.receiving old (.awaiting (b :: payload).length) plen wflag got) =
        .ok (.none, .receiving old (.awaiting payload.length) plen wflag (got ++ [b])) := by
      refine (rxByte_waitPayload hc b (by omega)).trans ?_
      simp only [DecState.awaiting, hlast]
      split <;> rfl
    rw [rxAll_cons hbyte, ih hgot, List.append_assoc]
    rfl

/-- The answer of a frame's last byte (R166): the bytes before the transmitted checksum `ck` are delivered if it is theirs. -/
def frameEvent (frame : List Byte) (plen : BitVec 10) (wflag : BitVec 1) (ck : Half) : Event :=
  if ck = crc16 frame then .frame frame plen wflag else .checksumErr ck (crc16 frame)

@[simp] theorem frameEvent_isSome (frame : List Byte) (plen : BitVec 10) (wflag : BitVec 1) (ck : Half) :
    (frameEvent frame plen wflag ck).isSome = true := by
  unfold frameEvent
  split <;> rfl

/-- The verdict compares the two checksum bytes with the checksum of all bytes before them (R166). -/
theorem frameVerdict_receiving {frame : List Byte} (c0 c1 : Byte) (hlen : frame.length = 3 + plen.toNat) :
    frameVerdict (.receiving old st plen wflag (frame ++ [c0, c1])) =
      frameEvent frame plen wflag (le16 c0 c1) := by
  have hplen := plen.isLt
  have htotal : (frame ++ [c0, c1]).length = frame.length + 2 := by simp
  have h2048 : (frame ++ [c0, c1]).length < 2048 := by omega
  have hc0 : (ParserState.receiving old st plen wflag (frame ++ [c0, c1])).byteAt frame.length = c0 := by
    rw [receiving_byteAt h2048 (by omega)]
    simp
  have hc1 : (ParserState.receiving old st plen wflag (frame ++ [c0, c1])).byteAt (frame.length + 1) = c1 := by
    rw [receiving_byteAt h2048 (by omega)]
    simp
  have hbytes : (ParserState.receiving old st plen wflag (frame ++ [c0, c1])).bytesTo frame.length = frame := by
    rw [receiving_bytesTo h2048 (by omega)]
    simp
  have hn1 : frame.length + 2 - 2 = frame.length := by omega
  have hn2 : frame.length + 2 - 1 = frame.length + 1 := by omega
  simp only [frameVerdict, frameEvent, receiving_cnt_toNat h2048, receiving_plen, receiving_wflag, htotal, hn1, hn2, hc0,
    hc1, hbytes, ← hlen]

/-- The two checksum bytes: the second one answers, and the decoder waits for a start byte again (R166, R167). -/
theorem rxAll_checksum {frame : List Byte} (hc : c.legal) (c0 c1 : Byte) (hlen : frame.length = 3 + plen.toNat) :
    rxAll c [c0, c1] (.receiving old .waitChecksum plen wflag frame) =
      .ok ([.none, frameEvent frame plen wflag (le16 c0 c1)],
        (ParserState.receiving old .waitChecksum plen wflag (frame ++ [c0, c1])).parserReset) := by
  have hplen := plen.isLt
  have hfirst := rxByte_waitChecksum (old := old) (plen := plen) (wflag := wflag) (got := frame) hc c0 (by omega)
  have hsecond := rxByte_waitChecksum (old := old) (plen := plen) (wflag := wflag) (got := frame ++ [c0]) hc c1
    (by rw [List.length_append, List.length_singleton]; omega)
  rw [if_neg (by omega)] at hfirst
  rw [if_pos (by rw [List.length_append, List.length_singleton]; omega), List.append_assoc, List.singleton_append] at hsecond
  rw [rxAll_cons hfirst, rxAll_cons hsecond, frameVerdict_receiving c0 c1 hlen]
  rfl

end

/-- R173 and R178: a whole frame from `WAIT_START`. Its last byte, and no other, answers. -/
theorem rxAll_frame {c : Config} {p : ParserState} {f1 f2 : Byte} {payload : List Byte} (c0 c1 : Byte) (hc : c.legal)
    (hclear : p.overflowed = false) (hst : p.st = .waitStart) (hlen : payload.length = (flagsPlen (le16 f1 f2)).toNat) :
    rxAll c (startByte :: f1 :: f2 :: payload ++ [c0, c1]) p =
      .ok (List.replicate (4 + payload.length) .none ++
        [frameEvent (startByte :: f1 :: f2 :: payload) (flagsPlen (le16 f1 f2)) (flagsWriteFlag (le16 f1 f2)) (le16 c0 c1)],
        { st := .waitStart, cnt := 0, plen := 0, wflag := 0,
          buf := p.buf.putAll (startByte :: f1 :: f2 :: payload ++ [c0, c1]) }) := by
  have hpayload := rxAll_payload (old := p.buf) (wflag := flagsWriteFlag (le16 f1 f2)) (got := [startByte, f1, f2])
    (payload := payload) (plen := flagsPlen (le16 f1 f2)) hc (by rw [hlen]; rfl)
  have hchecksum := rxAll_checksum (old := p.buf) (wflag := flagsWriteFlag (le16 f1 f2))
    (frame := startByte :: f1 :: f2 :: payload) (plen := flagsPlen (le16 f1 f2)) hc c0 c1 (by simp [hlen]; omega)
  have hflags := rxAll_flags (old := p.buf) (plen := p.plen) (wflag := p.wflag) hc startByte f1 f2
  rw [← hlen] at hflags
  have hstart : rxAll c [startByte] p = .ok ([.none], .receiving p.buf .waitFlags p.plen p.wflag [startByte]) := by
    rw [rxAll_cons (rxByte_startByte hc hclear hst)]
    rfl
  have hnones (n : Nat) (v : Event) :
      [.none] ++ ([.none, .none] ++ (List.replicate n .none ++ [.none, v])) = List.replicate (4 + n) Event.none ++ [v] := by
    rw [List.append_cons _ .none [v], ← List.replicate_succ', Nat.add_comm 4 n]
    rfl
  have hall := rxAll_append hstart (rxAll_append hflags (rxAll_append hpayload hchecksum))
  rw [hnones] at hall
  exact hall

/-- A chunk in which only the last byte answers has that one event (R168). -/
theorem filter_isSome_of_last (n : Nat) {e : Event} (he : e.isSome = true) :
    (List.replicate n Event.none ++ [e]).filter Event.isSome = [e] := by
  have hnone : Event.none.isSome = false := rfl
  simp [hnone, he]

/-- A frame on the wire is one chunk with one event: the reserved bits are dropped with the flags field (R86, R88). -/
theorem rxChunk_wireBytes {c : Config} {p : ParserState} {payload : List Byte} (wf : BitVec 1) (rsv : BitVec 5) (ck : Half)
    (hc : c.legal) (hclear : p.overflowed = false) (hst : p.st = .waitStart) (hlen : payload.length ≤ 1023) :
    rxChunk c (wireBytes wf rsv payload ck) p =
      .ok ([frameEvent (startByte :: (bytesLe16 (packFlags payload.length rsv wf) ++ payload))
          (BitVec.ofNat 10 payload.length) wf ck],
        { st := .waitStart, cnt := 0, plen := 0, wflag := 0, buf := p.buf.putAll (wireBytes wf rsv payload ck) }) := by
  have hplen := flagsPlen_packFlags_toNat rsv wf hlen
  have hflags := le16_lo8_hi8 (packFlags payload.length rsv wf)
  have hall := rxAll_frame (lo8 ck) (hi8 ck) hc hclear hst (by rw [hflags, hplen])
  rw [hflags, le16_lo8_hi8, flagsPlen_packFlags, flagsWriteFlag_packFlags] at hall
  have hwire : rxAll c (wireBytes wf rsv payload ck) p = _ := hall
  simp only [rxChunk, hwire, filter_isSome_of_last _ (frameEvent_isSome _ _ _ _)]
  rfl

/-- Settles O39: the frame row is the chunk of the frame's bytes, which stand in `buf` from index 0 on. -/
theorem receivedFrameGivesOneEvent : Obligations.ReceivedFrameGivesOneEvent := by
  intro s wf rsv payload ck hc hclear hst hlen frame
  refine ⟨_, Memory.cell?_putAll s.parser.buf (frame ++ bytesLe16 ck), ?_⟩
  simp only [exec, execFrameRx, receiveChunk, rxChunk_wireBytes wf rsv ck hc hclear hst hlen]
  rfl

/-! ### Operations and calls that send -/

theorem encodeFrame_scanEnable :
    encodeFrame opcScanEnable 1 [1] = [0xAA, 0x81, 0x00, 0x60, 0x01, 0x4D, 0xDC] := by decide

/-- Settles O42: all three send `encodeFrame 96 1 [1]`, which is the written frame. -/
theorem scanEnableIsAWriteInt8 : Obligations.ScanEnableIsAWriteInt8 := by
  intro s
  refine ⟨?_, rfl, rfl⟩
  rw [← encodeFrame_scanEnable]
  rfl

/-- Settles O43: each of the three arms is its refusal. -/
theorem unusedSelectCodesAreRefused : Obligations.UnusedSelectCodesAreRefused := fun _ => ⟨rfl, rfl, rfl⟩

/-- Settles O56: each call emits the frame of its encoder operation, and a step serves the call it takes off the list. -/
theorem hostCallsSendTheirFrames : Obligations.HostCallsSendTheirFrames :=
  ⟨fun _ => ⟨rfl, fun _ _ => rfl, fun _ _ => rfl, fun _ _ => rfl, fun _ _ => rfl, rfl, rfl, fun _ => rfl⟩,
    fun _ _ _ hin => step_of_inputs_cons hin⟩

end Sys2Proof.Machine

namespace Sys2Proof.Machine

/-! ### The checksum step over GF(2) -/

theorem lo8_xor (v w : Half) : lo8 (v ^^^ w) = lo8 v ^^^ lo8 w := BitVec.setWidth_xor

theorem hi8_xor (v w : Half) : hi8 (v ^^^ w) = hi8 v ^^^ hi8 w := by
  simp only [hi8, BitVec.ushiftRight_xor_distrib, BitVec.setWidth_xor]

theorem setWidth_hi8 (v : Half) : (hi8 v).setWidth 16 = v >>> 8 := by
  ext i hi
  by_cases h : i < 8
  · simp [hi8, h]
  · simp [hi8, h, show 16 ≤ 8 + i by omega]

theorem setWidth_lo8_shiftLeft (v : Half) : (lo8 v).setWidth 16 <<< 8 = v <<< 8 := by
  ext i hi
  by_cases h : i < 8
  · simp [lo8, h]
  · simp [lo8, h, show i - 8 < 8 by omega, BitVec.getLsbD_eq_getElem (show i - 8 < 16 by omega)]

theorem lo8_setWidth_shiftLeft (b : Byte) : lo8 (b.setWidth 16 <<< 8) = 0 := by
  ext i hi
  simp [lo8]

theorem hi8_setWidth_shiftLeft (b : Byte) : hi8 (b.setWidth 16 <<< 8) = b := by
  ext i hi
  simp [hi8, show 8 + i < 16 by omega, BitVec.getLsbD_eq_getElem hi]

/-- Only the low nibble of a byte survives a shift by twelve. -/
theorem setWidth_lowNibble_shiftLeft (u : Byte) : (u &&& 0x0F).setWidth 16 <<< 12 = u.setWidth 16 <<< 12 := by
  have hmask : (0x0F : Byte) = (BitVec.allOnes 4).setWidth 8 := rfl
  ext i hi
  by_cases h : i < 12
  · simp [h]
  · simp only [hmask, BitVec.getElem_shiftLeft, BitVec.getElem_setWidth, BitVec.getLsbD_and, BitVec.getLsbD_setWidth,
      BitVec.getLsbD_allOnes, show i - 12 < 4 by omega, show i - 12 < 8 by omega, decide_true, Bool.and_true]

/-- The byte `u` of R112, from the byte `t`: its high nibble is XORed into its low nibble. -/
def foldNibbles (t : Byte) : Byte := t ^^^ (t >>> 4)

theorem setWidth_foldNibbles (t : Byte) :
    (foldNibbles t).setWidth 16 = t.setWidth 16 ^^^ (t.setWidth 16 >>> 4) := by
  rw [foldNibbles, BitVec.setWidth_xor, BitVec.setWidth_ushiftRight (by decide)]

theorem foldNibbles_nibbles (t : Byte) :
    (foldNibbles t).extractLsb 7 4 = t.extractLsb 7 4 ∧
      (foldNibbles t).extractLsb 3 0 = t.extractLsb 3 0 ^^^ t.extractLsb 7 4 := by
  constructor <;> ext i hi
  · simp [foldNibbles, show 8 ≤ 4 + (4 + i) by omega]
  · simp [foldNibbles, show i < 8 by omega]

/-- The right side of R112, from the low byte `l` of `crc` and the byte `u`. -/
def crcClosedForm (l u : Byte) : Half :=
  (l.setWidth 16 <<< 8) ^^^ u.setWidth 16 ^^^ (u.setWidth 16 <<< 5) ^^^ ((u &&& 0x0F).setWidth 16 <<< 12)

theorem crcStep_eq_closedForm (crc : Half) (b : Byte) :
    crcStep crc b = crcClosedForm (lo8 crc) (foldNibbles (hi8 crc ^^^ b)) := by
  have hcode : (crc >>> 8 ^^^ b.setWidth 16) ^^^ (crc >>> 8 ^^^ b.setWidth 16) >>> 4 =
      (foldNibbles (hi8 crc ^^^ b)).setWidth 16 := by
    rw [setWidth_foldNibbles, BitVec.setWidth_xor, setWidth_hi8]
  simp only [crcStep, crcClosedForm, hcode, setWidth_lowNibble_shiftLeft, setWidth_lo8_shiftLeft,
    ← BitVec.shiftLeft_add]

/-- One bit of the closed form: `l` moved up by eight, and `u` in place, moved up by five and by twelve. -/
theorem getLsbD_crcClosedForm (l u : Byte) {i : Nat} (hi : i < 16) :
    (crcClosedForm l u).getLsbD i =
      ((decide (8 ≤ i) && l.getLsbD (i - 8)) ^^ u.getLsbD i ^^ (decide (5 ≤ i) && u.getLsbD (i - 5)) ^^
        (decide (12 ≤ i) && u.getLsbD (i - 12))) := by
  simp only [crcClosedForm, setWidth_lowNibble_shiftLeft, BitVec.getLsbD_xor, BitVec.getLsbD_shiftLeft,
    BitVec.getLsbD_setWidth, hi, show ∀ k, i - k < 16 by omega, decide_true, Bool.true_and, ← decide_not, Nat.not_lt]

theorem lo8_crcClosedForm (l u : Byte) : lo8 (crcClosedForm l u) = u ^^^ u <<< 5 := by
  ext i hi
  simp only [lo8, BitVec.getElem_setWidth, getLsbD_crcClosedForm l u (show i < 16 by omega)]
  simp [show ¬ 8 ≤ i by omega, show ¬ 12 ≤ i by omega, BitVec.getLsbD_eq_getElem hi,
    BitVec.getLsbD_eq_getElem (show i - 5 < 8 by omega), ← decide_not]

theorem crcClosedForm_zero_right (l : Byte) : crcClosedForm l 0 = l.setWidth 16 <<< 8 := by
  simp [crcClosedForm]

/-- The byte and the high half of `crc` enter the step as one XOR (R112). -/
theorem crcStep_eq_crcStep_zero (crc : Half) (b : Byte) :
    crcStep crc b = crcStep (crc ^^^ (b.setWidth 16 <<< 8)) 0 := by
  simp only [crcStep_eq_closedForm, lo8_xor, hi8_xor, lo8_setWidth_shiftLeft, hi8_setWidth_shiftLeft,
    BitVec.ofNat_eq_ofNat, BitVec.xor_zero]

theorem xor_xor_xor_comm {w : Nat} (x x' y y' : BitVec w) : (x ^^^ x') ^^^ (y ^^^ y') = (x ^^^ y) ^^^ (x' ^^^ y') := by
  ac_rfl

theorem foldNibbles_xor (t t' : Byte) : foldNibbles (t ^^^ t') = foldNibbles t ^^^ foldNibbles t' := by
  simp only [foldNibbles, BitVec.ushiftRight_xor_distrib]
  rw [xor_xor_xor_comm]

theorem crcClosedForm_xor (l l' u u' : Byte) :
    crcClosedForm (l ^^^ l') (u ^^^ u') = crcClosedForm l u ^^^ crcClosedForm l' u' := by
  simp only [crcClosedForm, setWidth_lowNibble_shiftLeft, BitVec.setWidth_xor, BitVec.shiftLeft_xor_distrib]
  rw [xor_xor_xor_comm (l.setWidth 16 <<< 8), xor_xor_xor_comm (l.setWidth 16 <<< 8 ^^^ u.setWidth 16),
    xor_xor_xor_comm]

/-- The step is linear over XOR (R112), as its closed form is. -/
theorem crcStep_xor (a a' : Half) (b b' : Byte) :
    crcStep (a ^^^ a') (b ^^^ b') = crcStep a b ^^^ crcStep a' b' := by
  simp only [crcStep_eq_closedForm, lo8_xor, hi8_xor]
  rw [xor_xor_xor_comm, foldNibbles_xor, crcClosedForm_xor]

/-- Settles O5: the closed form, its sixteen bits, and linearity. -/
theorem crcStepClosedForm : Obligations.CrcStepClosedForm := by
  refine ⟨?_, crcStep_eq_crcStep_zero, crcStep_xor⟩
  intro crc b t u l r
  have hr : r = crcClosedForm l u := crcStep_eq_closedForm crc b
  refine ⟨foldNibbles_nibbles t, hr, ?_⟩
  clear_value r u l
  simp only [hr, getLsbD_crcClosedForm, BitVec.getLsbD_of_ge, Nat.reduceLT, Nat.reduceLeDiff, Nat.reduceSub, decide_true,
    decide_false, Bool.true_and, Bool.false_and, Bool.xor_false, Bool.false_xor]
  simp only [Bool.xor_comm, Bool.xor_left_comm, and_self]

/-! ### The step loses nothing -/

/-- A vector that equals its image under `f` is 0 when `f` applied twice gives 0, as a shift by half the width does. -/
theorem eq_zero_of_xor_apply {w : Nat} {f : BitVec w → BitVec w} (hf : ∀ x, f (f x) = 0) {x : BitVec w}
    (h : x ^^^ f x = 0) : x = 0 := by
  have hx : x = f x := BitVec.xor_eq_zero_iff.mp h
  calc x = f (f x) := by rw [← hx, ← hx]
    _ = 0 := hf x

theorem eq_zero_of_foldNibbles_eq_zero {t : Byte} (h : foldNibbles t = 0) : t = 0 := by
  refine eq_zero_of_xor_apply (f := fun x => x >>> 4) (fun x => ?_) h
  rw [← BitVec.shiftRight_add]
  exact BitVec.ushiftRight_eq_zero (by decide)

theorem right_eq_zero_of_crcClosedForm_eq_zero {l u : Byte} (h : crcClosedForm l u = 0) : u = 0 := by
  have hlow : u ^^^ u <<< 5 = 0 := by
    rw [← lo8_crcClosedForm l, h]
    rfl
  refine eq_zero_of_xor_apply (f := fun x => x <<< 5) (fun x => ?_) hlow
  rw [← BitVec.shiftLeft_add]
  exact BitVec.shiftLeft_eq_zero (by decide)

theorem left_eq_zero_of_crcClosedForm_eq_zero {l : Byte} (h : crcClosedForm l 0 = 0) : l = 0 := by
  rw [← hi8_setWidth_shiftLeft l, ← crcClosedForm_zero_right, h]
  rfl

/-- The kernel of the step: it answers 0 only where the byte equals the high half and the low half is 0. -/
theorem crcStep_eq_zero {crc : Half} {b : Byte} (h : crcStep crc b = 0) : lo8 crc = 0 ∧ hi8 crc = b := by
  rw [crcStep_eq_closedForm] at h
  have hu := right_eq_zero_of_crcClosedForm_eq_zero h
  rw [hu] at h
  exact ⟨left_eq_zero_of_crcClosedForm_eq_zero h, BitVec.xor_eq_zero_iff.mp (eq_zero_of_foldNibbles_eq_zero hu)⟩

/-- By linearity, two steps that agree differ by an element of the kernel. -/
theorem xor_of_crcStep_eq {a a' : Half} {b b' : Byte} (h : crcStep a b = crcStep a' b') :
    lo8 (a ^^^ a') = 0 ∧ hi8 (a ^^^ a') = b ^^^ b' :=
  crcStep_eq_zero ((crcStep_xor a a' b b').trans (BitVec.xor_eq_zero_iff.mpr h))

theorem crcStep_injective_crc (b : Byte) : Function.Injective fun crc => crcStep crc b := by
  intro a a' h
  obtain ⟨hlo, hhi⟩ := xor_of_crcStep_eq h
  refine BitVec.xor_eq_zero_iff.mp ?_
  rw [← le16_lo8_hi8 (a ^^^ a'), hlo, hhi, BitVec.xor_self]
  rfl

theorem crcStep_injective_byte (crc : Half) : Function.Injective (crcStep crc) := by
  intro b b' h
  obtain ⟨_, hhi⟩ := xor_of_crcStep_eq h
  refine BitVec.xor_eq_zero_iff.mp ?_
  rw [← hhi, BitVec.xor_self]
  rfl

/-- A difference of the register is never folded away by the bytes that follow. -/
theorem foldl_crcStep_injective (ys : List Byte) : Function.Injective fun crc => ys.foldl crcStep crc := by
  induction ys with
  | nil => exact fun _ _ h => h
  | cons y ys ih => exact ih.comp (crcStep_injective_crc y)

theorem crc16_append_cons (xs ys : List Byte) (b : Byte) :
    crc16 (xs ++ b :: ys) = ys.foldl crcStep (crcStep (crc16 xs) b) := by
  rw [crc16_append, List.foldl_cons]

/-- Two sequences that differ in one byte only have different checksums. -/
theorem crc16_ne_of_one_byte_ne (xs ys : List Byte) {b b' : Byte} (h : b ≠ b') :
    crc16 (xs ++ b :: ys) ≠ crc16 (xs ++ b' :: ys) := by
  rw [crc16_append_cons, crc16_append_cons]
  exact ((foldl_crcStep_injective ys).comp (crcStep_injective_byte (crc16 xs))).ne h

theorem xor_bit_ne {k : Nat} (hk : k < 8) (b : Byte) : b ^^^ ((1 <<< k : Nat) : Byte) ≠ b := by
  intro h
  have hbit : ((1 <<< k : Nat) : Byte) = 0 := by
    rw [← BitVec.xor_right_inj b, h]
    exact BitVec.xor_zero.symm
  have hpow : 2 ^ k < 2 ^ 8 := Nat.pow_lt_pow_right (by decide) hk
  have hnat := congrArg BitVec.toNat hbit
  rw [BitVec.natCast_eq_ofNat, BitVec.toNat_ofNat, Nat.one_shiftLeft, Nat.mod_eq_of_lt hpow] at hnat
  exact absurd hnat (Nat.two_pow_pos k).ne'

/-- Settles O7: the flip changes the byte, so it changes the checksum. -/
theorem singleBitFlipChangesChecksum : Obligations.SingleBitFlipChangesChecksum :=
  fun xs ys b _ hk => crc16_ne_of_one_byte_ne xs ys (xor_bit_ne hk b)

/-! ### The checksum operations -/

theorem exec_crcInit (s : State) : exec .crcInit s = .next { s with crc := 0, result := .none } := rfl

theorem exec_crcStep (b : Byte) (s : State) :
    exec (.crcStep b) s = .next { s with crc := crcStep s.crc b, result := .none } := rfl

theorem exec_crcRead (s : State) : exec .crcRead s = .next { s with result := .checksum s.crc } := rfl

theorem exec_crcBlock (bytes : List Byte) (s : State) :
    exec (.crcBlock bytes) s = .next { s with result := .checksum (crc16 bytes) } := rfl

/-- Settles O1: `CRC.INIT` leaves `crc` at 0, and `CRC.READ` answers what it finds there. -/
theorem crcInitWritesZero : Obligations.CrcInitWritesZero :=
  ⟨rfl, fun s => ⟨exec_crcInit s, exec_crcRead _⟩⟩

/-- Settles O2: the operation is the step on `crc`; the six values are evaluated. -/
theorem crcStepFoldsOneByte : Obligations.CrcStepFoldsOneByte :=
  ⟨fun _ => rfl, exec_crcStep, by decide⟩

/-- Settles O3: reading leaves `crc`, and the example is the run of its six operations. -/
theorem crcReadAnswersRegister : Obligations.CrcReadAnswersRegister := by
  refine ⟨rfl, fun s => ⟨exec_crcRead s, exec_crcRead _⟩, fun s => ?_⟩
  have hfold : crcStep (crcStep (crcStep (crcStep 0 0xAA) 0x40) 0x00) 0x00 = 0x9F70 := by decide
  simp only [runOps, exec_crcInit, exec_crcStep, exec_crcRead, Option.map_some, hfold]

/-! ### The checksum of a sequence -/

theorem crc16_zero_cons (bytes : List Byte) : crc16 (0 :: bytes) = crc16 bytes :=
  congrArg (bytes.foldl crcStep) (show crcStep 0 0 = 0 by decide)

theorem crc16_replicate_zero (n : Nat) : crc16 (List.replicate n 0) = 0 := by
  induction n with
  | zero => rfl
  | succ n ih => rw [List.replicate_succ, crc16_zero_cons, ih]

/-- Settles O4: the answer is the fold from 0; a step of 0 with a zero byte stays at 0. -/
theorem crcBlockLeavesRegister : Obligations.CrcBlockLeavesRegister :=
  ⟨fun _ => rfl, exec_crcBlock, rfl, crc16_replicate_zero, crc16_zero_cons, by decide⟩

/-- Settles O6: a fold over an appended list goes on from the fold over the first. -/
theorem checksumRunsByteByByte : Obligations.ChecksumRunsByteByByte :=
  ⟨rfl, fun xs b => crc16_append xs [b], fun xs ys => (crc16_append xs ys).symm⟩

end Sys2Proof.Machine

namespace Sys2Proof.Machine

/-! ### The bytes of an encoded frame -/

/-- An encoder leaves the reserved bits 0 (R85). -/
theorem packFlags_zero (n : Nat) (wf : BitVec 1) : packFlags n 0 wf = assembleFlags n wf := by
  simp [packFlags]

/-- A composed frame by the two bytes of its flags field: the bytes sent, then their checksum low byte first (R119). -/
theorem composeFrame_of_flags {n : Nat} {wf : BitVec 1} {f1 f2 : Byte} (h1 : lo8 (assembleFlags n wf) = f1)
    (h2 : hi8 (assembleFlags n wf) = f2) (op : Byte) (val : List Byte) :
    composeFrame n wf op val =
      startByte :: f1 :: f2 :: op :: val ++ bytesLe16 (crc16 (startByte :: f1 :: f2 :: op :: val)) := by
  rw [composeFrame_eq, h1, h2]
  rfl

/-- The bytes `h` of R130: all of an encoded frame but its checksum. -/
def beforeChecksum (op : Byte) (wf : BitVec 1) (val : List Byte) : List Byte :=
  startByte :: lo8 (assembleFlags (1 + val.length) wf) :: hi8 (assembleFlags (1 + val.length) wf) :: op :: val

theorem encodeFrame_eq (op : Byte) (wf : BitVec 1) (val : List Byte) :
    encodeFrame op wf val = beforeChecksum op wf val ++ bytesLe16 (crc16 (beforeChecksum op wf val)) :=
  composeFrame_eq (1 + val.length) wf op val

theorem encodeInt16_of_three {c : Config} (h : c.int16DeclaredPlen = .three) (op : Byte) (v : Half) :
    encodeInt16 c op v = encodeFrame op 1 (bytesLe16 v) := by
  rw [encodeInt16, h]
  rfl

/-- The header of a Write-int16 by its declared length (R136). -/
def int16Header : Int16Plen → List Byte
  | .three => [0xAA, 0xC1, 0x00]
  | .four => [0xAA, 0x01, 0x01]

theorem encodeInt16_eq (c : Config) (op : Byte) (v : Half) :
    encodeInt16 c op v = int16Header c.int16DeclaredPlen ++ [op, lo8 v, hi8 v] ++
      bytesLe16 (crc16 (int16Header c.int16DeclaredPlen ++ [op, lo8 v, hi8 v])) := by
  rw [encodeInt16]
  cases c.int16DeclaredPlen with
  | three => exact composeFrame_of_flags (f1 := 0xC1) (f2 := 0x00) (by decide) (by decide) op (bytesLe16 v)
  | four => exact composeFrame_of_flags (f1 := 0x01) (f2 := 0x01) (by decide) (by decide) op (bytesLe16 v)

/-- `bytes_le(v, 4)` byte by byte (R14). -/
theorem bytesLe32_eq_extractLsb' (v : Word) :
    bytesLe32 v = [v.extractLsb' 0 8, v.extractLsb' 8 8, v.extractLsb' 16 8, v.extractLsb' 24 8] := by
  have hbyte (k : Nat) : (v >>> k).setWidth 8 = v.extractLsb' k 8 := by
    ext i hi
    simp
  rw [← hbyte 0, ← hbyte 8, ← hbyte 16, ← hbyte 24]
  rfl

/-! ### An encoded frame at the decoder -/

/-- A whole frame but its last byte has no answer yet, and the decoder waits for that byte (R166). -/
theorem rxAll_frame_init {c : Config} {p : ParserState} {f1 f2 : Byte} {payload : List Byte} (c0 : Byte) (hc : c.legal)
    (hclear : p.overflowed = false) (hst : p.st = .waitStart) (hlen : payload.length = (flagsPlen (le16 f1 f2)).toNat) :
    rxAll c (startByte :: f1 :: f2 :: payload ++ [c0]) p =
      .ok (List.replicate (4 + payload.length) .none,
        .receiving p.buf .waitChecksum (flagsPlen (le16 f1 f2)) (flagsWriteFlag (le16 f1 f2))
          (startByte :: f1 :: f2 :: payload ++ [c0])) := by
  have hplen := (flagsPlen (le16 f1 f2)).isLt
  have hstart : rxAll c [startByte] p = .ok ([.none], .receiving p.buf .waitFlags p.plen p.wflag [startByte]) := by
    rw [rxAll_cons (rxByte_startByte hc hclear hst)]
    rfl
  have hflags := rxAll_flags (old := p.buf) (plen := p.plen) (wflag := p.wflag) hc startByte f1 f2
  rw [← hlen] at hflags
  have hpayload := rxAll_payload (old := p.buf) (wflag := flagsWriteFlag (le16 f1 f2)) (got := [startByte, f1, f2])
    (plen := flagsPlen (le16 f1 f2)) hc (by rw [hlen]; rfl)
  have hbyte := rxByte_waitChecksum (old := p.buf) (wflag := flagsWriteFlag (le16 f1 f2))
    (got := startByte :: f1 :: f2 :: payload) (plen := flagsPlen (le16 f1 f2)) hc c0 (by simp; omega)
  rw [if_neg (by simp; omega)] at hbyte
  have hlast : rxAll c [c0] _ = _ := rxAll_cons hbyte
  have hnones (n : Nat) :
      [.none] ++ ([.none, .none] ++ (List.replicate n .none ++ [.none])) = List.replicate (4 + n) Event.none := by
    rw [← List.replicate_succ', Nat.add_comm 4 n]
    rfl
  have hall := rxAll_append hstart (rxAll_append hflags (rxAll_append hpayload hlast))
  rw [hnones] at hall
  exact hall

theorem frameEvent_crc16 (frame : List Byte) (plen : BitVec 10) (wflag : BitVec 1) :
    frameEvent frame plen wflag (crc16 frame) = .frame frame plen wflag := if_pos rfl

/-- R140 for a frame whose declared length is the number of bytes sent: the decoder reads back what was put into the flags
field, and finds the checksum of the bytes before it. -/
theorem rxAll_encodeFrame {c : Config} {p : ParserState} (op : Byte) (wf : BitVec 1) {val : List Byte} (hc : c.legal)
    (hclear : p.overflowed = false) (hst : p.st = .waitStart) (hlen : val.length ≤ 1022) :
    rxAll c (encodeFrame op wf val) p =
      .ok (List.replicate (5 + val.length) .none ++
        [.frame (beforeChecksum op wf val) (BitVec.ofNat 10 (1 + val.length)) wf],
        { st := .waitStart, cnt := 0, plen := 0, wflag := 0, buf := p.buf.putAll (encodeFrame op wf val) }) := by
  have hflags : le16 (lo8 (assembleFlags (1 + val.length) wf)) (hi8 (assembleFlags (1 + val.length) wf)) =
      packFlags (1 + val.length) 0 wf := by rw [le16_lo8_hi8, packFlags_zero]
  have hpayload : (op :: val).length = 1 + val.length := Nat.add_comm _ _
  have hframe := rxAll_frame (payload := op :: val) (lo8 (crc16 (beforeChecksum op wf val)))
    (hi8 (crc16 (beforeChecksum op wf val))) hc hclear hst
    (by rw [hflags, hpayload, flagsPlen_packFlags_toNat 0 wf (by omega)])
  rw [hflags, flagsPlen_packFlags, flagsWriteFlag_packFlags, le16_lo8_hi8, hpayload, ← Nat.add_assoc] at hframe
  rw [encodeFrame_eq, ← frameEvent_crc16]
  exact hframe

/-- R136 and R140: with a declared length of 4 the first checksum byte is taken for payload, and one byte is missing. -/
theorem rxAll_encodeInt16_of_four {c : Config} {p : ParserState} (op : Byte) (v : Half) (hc : c.legal)
    (hclear : p.overflowed = false) (hst : p.st = .waitStart) (hfour : c.int16DeclaredPlen = .four) :
    rxAll c (encodeInt16 c op v) p =
      .ok (List.replicate 8 .none, .receiving p.buf .waitChecksum 4 1 (encodeInt16 c op v)) := by
  have hplen : flagsPlen (le16 0x01 0x01) = 4 := by decide
  have hwflag : flagsWriteFlag (le16 0x01 0x01) = 1 := by decide
  have hbytes (c0 c1 : Byte) := rxAll_frame_init (f1 := 0x01) (f2 := 0x01) (payload := [op, lo8 v, hi8 v, c0]) c1 hc hclear
    hst (by rw [hplen]; rfl)
  rw [hplen, hwflag] at hbytes
  rw [encodeInt16_eq, hfour]
  exact hbytes _ _

/-- Settles O25: the frame's declared length is the number of bytes sent, except for a Write-int16 with 4, which the decoder
still waits for one byte of. -/
theorem encodedFrameRoundTrip : Obligations.EncodedFrameRoundTrip := by
  refine ⟨fun c p op wf val hc hclear hst hlen => ?_, fun c op v hthree => encodeInt16_of_three hthree op v,
    fun c p op v hc hclear hst hfour => ?_⟩
  · exact ⟨_, rfl, rfl, rfl, rfl, rxAll_encodeFrame op wf hc hclear hst hlen⟩
  · exact ⟨_, rfl, congrArg (BitVec.ofNat 11) (encodeInt16_length c op v), rfl,
      rxAll_encodeInt16_of_four op v hc hclear hst hfour⟩

/-! ### The encoder operations -/

/-- Sending a frame, by its bytes: they go to an open transport, and they are the answer (R131, R235). -/
theorem next_emitFrame_eq {bytes result : List Byte} (h : bytes = result) (s : State) :
    (.next (s.emitFrame bytes) : Host.Outcome State Fault Refusal) =
      .next { s with tx := if s.linkOpen then s.tx ++ [result] else s.tx, result := .bytes result } := by
  rw [h]
  rfl

theorem exec_encFrame_of_le (op : Byte) (wf : BitVec 1) {val : List Byte} (s : State) (h : val.length ≤ 1022) :
    exec (.encFrame op wf val) s = .next (s.emitFrame (encodeFrame op wf val)) :=
  if_neg (Nat.not_lt.mpr h)

theorem exec_encFrame_of_gt (op : Byte) (wf : BitVec 1) {val : List Byte} (s : State) (h : 1022 < val.length) :
    exec (.encFrame op wf val) s = .refused (.encRefused val.length) :=
  if_pos h

theorem exec_encGet (op : Byte) (s : State) : exec (.encGet op) s = .next (s.emitFrame (encodeFrame op 0 [])) := rfl

theorem exec_encWr8 (op v : Byte) (s : State) : exec (.encWr8 op v) s = .next (s.emitFrame (encodeFrame op 1 [v])) := rfl

theorem exec_encWr16 (op : Byte) (v : Half) (s : State) :
    exec (.encWr16 op v) s = .next (s.emitFrame (encodeInt16 s.cfg op v)) := rfl

theorem exec_encWr32 (op : Byte) (v : Word) (s : State) :
    exec (.encWr32 op v) s = .next (s.emitFrame (encodeFrame op 1 (bytesLe32 v))) := rfl

theorem exec_encWrf (op : Byte) (p : Word) (s : State) :
    exec (.encWrf op p) s = .next (s.emitFrame (encodeFrame op 1 (bytesLe32 p))) := rfl

/-- The five fixed shapes always send a frame (R132). -/
theorem exec_of_fixedShape {i : Instr} {k : BitVec 4} (hsel : i.sel = some k) (hlow : 5 ≤ k.toNat) (hhigh : k.toNat ≤ 9)
    (s : State) : ∃ bytes, exec i s = .next (s.emitFrame bytes) := by
  cases i with
  | encGet op => exact ⟨_, exec_encGet op s⟩
  | encWr8 op v => exact ⟨_, exec_encWr8 op v s⟩
  | encWr16 op v => exact ⟨_, exec_encWr16 op v s⟩
  | encWr32 op v => exact ⟨_, exec_encWr32 op v s⟩
  | encWrf op p => exact ⟨_, exec_encWrf op p s⟩
  | frameRx | msgProductName | msgDistanceSample | msgScanEnable => exact nomatch hsel
  | crcInit | crcStep | crcRead | crcBlock | encFrame =>
    obtain rfl := Option.some.inj hsel
    exact absurd hlow (by decide)
  | decRx | decRxn | decReset | selD | selE | selF =>
    obtain rfl := Option.some.inj hsel
    exact absurd hhigh (by decide)

/-- An encoder operation that answers sent one frame and did nothing else (R28, R131). -/
theorem exec_encoder_next {i : Instr} {k : BitVec 4} {s t : State} (hsel : i.sel = some k) (hlow : 4 ≤ k.toNat)
    (hhigh : k.toNat ≤ 9) (h : exec i s = .next t) : ∃ bytes, t = s.emitFrame bytes := by
  cases exec_effect h with
  | sent bytes _ ht => exact ⟨bytes, ht⟩
  | wroteCrc v hcode _ =>
    have := hcode k hsel
    omega
  | readChecksum v hcode _ =>
    have := hcode k hsel
    omega
  | decoded p r hcode _ _ =>
    obtain ⟨_, _⟩ := hcode k hsel
    omega
  | delivered p es hnone _ _ => exact nomatch hnone.symm.trans hsel

/-- Settles O8: the bytes are those of `encodeFrame`, and the decoder's reading of the flags field takes its parts back. -/
theorem encFrameBuildsFrame : Obligations.EncFrameBuildsFrame := by
  refine ⟨fun _ _ _ => rfl, ?_, fun op wf val s => exec_encFrame_of_gt op wf s, by decide⟩
  intro op wf val s hlen n flags h result
  have hresult : result.length = 6 + val.length := (encodeFrame_length op wf val).trans (Nat.add_comm _ _)
  have hflags : flags = packFlags n 0 wf := (packFlags_zero n wf).symm
  refine ⟨exec_encFrame_of_le op wf s hlen, hresult, by omega, ?_, ?_, ?_, fun hmax => ⟨?_, by omega⟩⟩
  · rw [hflags, flagsPlen_packFlags_toNat 0 wf (by omega)]
  · rw [hflags, flagsWriteFlag_packFlags]
  · rw [hflags, flagsReserved_packFlags]
  · simp only [flags, n, hmax]
    rfl

/-- Settles O15: each operation of the run answers one frame and appends it to what the open transport has got. -/
theorem encodedFramesLeaveWholeInOrder : Obligations.EncodedFramesLeaveWholeInOrder := by
  intro ops s t rs hops hrun
  induction ops generalizing s rs with
  | nil =>
    obtain ⟨rfl, rfl⟩ := Prod.mk.inj (Option.some.inj hrun)
    exact ⟨[], rfl, rfl, by simp⟩
  | cons i ops ih =>
    obtain ⟨⟨k, hsel, hlow, hhigh⟩, hops⟩ := List.forall_mem_cons.mp hops
    obtain ⟨u, rs', hexec, hrest, rfl⟩ := runOps_cons_some hrun
    obtain ⟨bytes, rfl⟩ := exec_encoder_next hsel hlow hhigh hexec
    obtain ⟨frames, rfl, hlen, htx⟩ := ih _ _ hops hrest
    refine ⟨bytes :: frames, rfl, by rw [List.length_cons, List.length_cons, hlen], ?_⟩
    rw [htx, State.emitFrame_linkOpen, State.emitFrame_tx]
    cases s.linkOpen <;> simp

/-- Settles O9: the length is the only guard, and the fixed shapes have none. -/
theorem onlyOverlongFrameIsRefused : Obligations.OnlyOverlongFrameIsRefused := by
  refine ⟨fun op wf val s hlong => ⟨exec_encFrame_of_gt op wf s hlong, rfl⟩,
    fun op wf val s hlen => ⟨_, exec_encFrame_of_le op wf s hlen⟩, fun i s ⟨k, hsel, hlow, hhigh⟩ => ?_⟩
  obtain ⟨bytes, hexec⟩ := exec_of_fixedShape hsel hlow hhigh s
  exact ⟨_, hexec⟩

/-! ### The five fixed shapes -/

theorem encodeFrame_get (op : Byte) :
    encodeFrame op 0 [] = [0xAA, 0x40, 0x00, op] ++ bytesLe16 (crc16 [0xAA, 0x40, 0x00, op]) :=
  composeFrame_of_flags (n := 1) (f1 := 0x40) (f2 := 0x00) (by decide) (by decide) op []

theorem encodeFrame_int8 (op v : Byte) :
    encodeFrame op 1 [v] = [0xAA, 0x81, 0x00, op, v] ++ bytesLe16 (crc16 [0xAA, 0x81, 0x00, op, v]) :=
  composeFrame_of_flags (n := 2) (f1 := 0x81) (f2 := 0x00) (by decide) (by decide) op [v]

/-- The ten bytes of a Write-int32, also of a Write-float (R137, R138), by the value bytes of the pattern. -/
theorem encodeFrame_int32 (op : Byte) (v : Word) :
    let h : List Byte :=
      [0xAA, 0x41, 0x01, op, v.extractLsb' 0 8, v.extractLsb' 8 8, v.extractLsb' 16 8, v.extractLsb' 24 8]
    encodeFrame op 1 (bytesLe32 v) = h ++ bytesLe16 (crc16 h) := by
  rw [bytesLe32_eq_extractLsb']
  exact composeFrame_of_flags (n := 5) (f1 := 0x41) (f2 := 0x01) (by decide) (by decide) op _

/-- Settles O10: a frame without value bytes. -/
theorem encGetBuildsGetFrame : Obligations.EncGetBuildsGetFrame :=
  ⟨fun _ => rfl,
    fun op s => ⟨(exec_encGet op s).trans (next_emitFrame_eq (encodeFrame_get op) s),
      (exec_encGet op s).trans (exec_encFrame_of_le op 0 s (by decide)).symm⟩,
    by decide⟩

/-- Settles O11: a frame with one value byte. -/
theorem encWr8BuildsInt8Frame : Obligations.EncWr8BuildsInt8Frame :=
  ⟨fun _ _ => rfl,
    fun op v s => ⟨(exec_encWr8 op v s).trans (next_emitFrame_eq (encodeFrame_int8 op v) s),
      (exec_encWr8 op v s).trans (exec_encFrame_of_le op 1 s (by simp)).symm⟩,
    by decide⟩

/-- Settles O12: the parameter chooses the header; with 3 it is the length of what is sent. -/
theorem encWr16BuildsInt16Frame : Obligations.EncWr16BuildsInt16Frame := by
  refine ⟨fun _ _ => rfl, fun op v s => ⟨?_, fun hthree => ?_⟩, fun cap => ?_⟩
  · exact (exec_encWr16 op v s).trans (next_emitFrame_eq (encodeInt16_eq s.cfg op v) s)
  · rw [exec_encWr16, encodeInt16_of_three hthree, exec_encFrame_of_le op 1 s (by simp)]
  · simp only [encodeInt16_eq]
    decide

/-- Settles O13: a frame with the four bytes of the value. -/
theorem encWr32BuildsInt32Frame : Obligations.EncWr32BuildsInt32Frame :=
  ⟨fun _ _ => rfl,
    fun op v s => ⟨(exec_encWr32 op v s).trans (next_emitFrame_eq (encodeFrame_int32 op v) s),
      (exec_encWr32 op v s).trans (exec_encFrame_of_le op 1 s (by simp)).symm⟩,
    by decide⟩

/-- Settles O14: a frame with the four bytes of the pattern, as `ENC.WR32` sends them. -/
theorem encWrfPassesPatternThrough : Obligations.EncWrfPassesPatternThrough :=
  ⟨fun _ _ => rfl,
    fun op p s => ⟨(exec_encWrf op p s).trans (next_emitFrame_eq (encodeFrame_int32 op p) s),
      (exec_encWrf op p s).trans (exec_encFrame_of_le op 1 s (by simp)).symm,
      (exec_encWrf op p s).trans (exec_encWr32 op p s).symm⟩,
    by decide⟩

end Sys2Proof.Machine

namespace Sys2Proof.Machine

/-! ### A frame and the rest of the stream -/

/-- Settles O24: the frame's bytes one by one; they are what the buffer then holds from index 0 on. -/
theorem startByteCommitsToWholeFrame : Obligations.StartByteCommitsToWholeFrame := by
  intro c p f1 f2 c0 c1 payload hc hclear hst hlen frame
  have hcells := Memory.cell?_putAll p.buf (frame ++ [c0, c1])
  exact ⟨{ ParserState.reset with buf := p.buf.putAll (frame ++ [c0, c1]) }, rfl, rfl, rfl, rfl, rfl, hcells,
    rxAll_frame c0 c1 hc hclear hst hlen⟩

theorem rxAll_cons_of_error {c : Config} {b : Byte} {p : ParserState} {f : Fault} (bytes : List Byte)
    (h : rxByte c b p = .error f) : rxAll c (b :: bytes) p = .error f := by
  simp only [rxAll, h]

/-- A byte stream in two parts, the second from where the first leaves the decoder; the first fault ends it (R169). -/
theorem rxAll_append_eq_bind (c : Config) (xs ys : List Byte) (p : ParserState) :
    rxAll c (xs ++ ys) p =
      (rxAll c xs p).bind fun x => (rxAll c ys x.2).map fun y => (x.1 ++ y.1, y.2) := by
  induction xs generalizing p with
  | nil => cases h : rxAll c ys p <;> simp [Except.bind, Except.map, h]
  | cons b xs ih =>
    cases hbyte : rxByte c b p with
    | error f =>
      rw [List.cons_append, rxAll_cons_of_error _ hbyte, rxAll_cons_of_error _ hbyte]
      rfl
    | ok x =>
      rw [List.cons_append, rxAll_cons hbyte, rxAll_cons hbyte, ih]
      cases rxAll c xs x.2 with
      | error f => rfl
      | ok y =>
        cases h : rxAll c ys y.2 <;> simp [Except.bind, Except.map, h]

theorem rxChunk_eq_map (c : Config) (bytes : List Byte) (p : ParserState) :
    rxChunk c bytes p = (rxAll c bytes p).map fun x => (x.1.filter Event.isSome, x.2) := by
  unfold rxChunk
  cases rxAll c bytes p <;> rfl

theorem rxChunk_of_rxAll {c : Config} {bytes : List Byte} {p q : ParserState} {es : List Event}
    (h : rxAll c bytes p = .ok (es, q)) : rxChunk c bytes p = .ok (es.filter Event.isSome, q) := by
  rw [rxChunk_eq_map, h]
  rfl

theorem rxChunk_error_iff {c : Config} {bytes : List Byte} {p : ParserState} {f : Fault} :
    rxChunk c bytes p = .error f ↔ rxAll c bytes p = .error f := by
  cases h : rxAll c bytes p <;> simp [rxChunk, h]

/-- The same for chunks: dropping the empty events commutes with appending (R168, R169). -/
theorem rxChunk_append_eq_bind (c : Config) (xs ys : List Byte) (p : ParserState) :
    rxChunk c (xs ++ ys) p =
      (rxChunk c xs p).bind fun x => (rxChunk c ys x.2).map fun y => (x.1 ++ y.1, y.2) := by
  simp only [rxChunk_eq_map, rxAll_append_eq_bind]
  cases rxAll c xs p with
  | error f => rfl
  | ok x =>
    cases h : rxAll c ys x.2 <;> simp [Except.bind, Except.map, h]

/-- What a byte does to one of two agreeing ParserStates it does to the other (R21, R240). -/
theorem rxByte_ok_of_agree {c : Config} {b : Byte} {p q q' : ParserState} {e : Event} (h : p.agree q)
    (hq : rxByte c b q = .ok (e, q')) : ∃ p', rxByte c b p = .ok (e, p') ∧ p'.agree q' := by
  obtain ⟨hclear, hrule⟩ := rxByte_ok hq
  obtain ⟨_, _, _, _, hov, _⟩ := id h
  obtain ⟨hevent, hagree⟩ := rxRule_alike c b h
  rw [hrule] at hevent hagree
  have hrule' : rxRule c b p = (e, (rxRule c b p).2) := Prod.ext hevent rfl
  exact ⟨(rxRule c b p).2, by rw [rxByte_eq (hov.trans hclear), ← hrule'], hagree⟩

theorem rxAll_ok_of_agree {c : Config} {bytes : List Byte} {p q q' : ParserState} {es : List Event} (h : p.agree q)
    (hq : rxAll c bytes q = .ok (es, q')) : ∃ p', rxAll c bytes p = .ok (es, p') ∧ p'.agree q' := by
  induction bytes generalizing p q es with
  | nil =>
    obtain ⟨rfl, rfl⟩ := Prod.mk.inj (Except.ok.inj hq)
    exact ⟨p, rfl, h⟩
  | cons b bytes ih =>
    obtain ⟨e, r, es', hbyte, hrest, rfl⟩ := rxAll_cons_ok hq
    obtain ⟨r', hbyte', hagree⟩ := rxByte_ok_of_agree h hbyte
    obtain ⟨p', hrest', hagree'⟩ := ih hagree hrest
    exact ⟨p', by rw [rxAll_cons hbyte', hrest']; rfl, hagree'⟩

theorem rxChunk_ok_of_agree {c : Config} {bytes : List Byte} {p q q' : ParserState} {es : List Event} (h : p.agree q)
    (hq : rxChunk c bytes q = .ok (es, q')) : ∃ p', rxChunk c bytes p = .ok (es, p') ∧ p'.agree q' := by
  obtain ⟨all, hall, rfl⟩ := rxChunk_ok hq
  obtain ⟨p', hall', hagree⟩ := rxAll_ok_of_agree h hall
  exact ⟨p', rxChunk_of_rxAll hall', hagree⟩

/-- Settles O26: the frame leaves the registers of the reset state over other cells of `buf`, which no rule reads. -/
theorem checksumMismatchIsIsolated : Obligations.ChecksumMismatchIsIsolated := by
  intro c p q wf rsv payload rest ck es hc hclear hst hlen frame hck hrest
  have hframe := rxChunk_wireBytes wf rsv ck hc hclear hst hlen
  have hevent : frameEvent frame (BitVec.ofNat 10 payload.length) wf ck = .checksumErr ck (crc16 frame) := if_neg hck
  have hleft : ({ ParserState.reset with buf := p.buf.putAll (wireBytes wf rsv payload ck) } : ParserState).agree .reset :=
    agree_of_cnt_zero rfl rfl rfl rfl rfl rfl
  obtain ⟨q', hrest', hagree⟩ := rxChunk_ok_of_agree hleft hrest
  refine ⟨q', hagree, ?_⟩
  rw [rxChunk_append_eq_bind, hframe, ← hevent]
  exact congrArg (Except.map _) hrest'

/-! ### Where the machine faults -/

theorem receiveChunk_of_ok {bytes : List Byte} {s : State} {es : List Event} {p : ParserState}
    (h : rxChunk s.cfg bytes s.parser = .ok (es, p)) :
    receiveChunk bytes s = .next ((s.setParser p).answer (.events es)) := by
  simp only [receiveChunk, h]

theorem receiveChunk_fault_iff {bytes : List Byte} {s : State} {f : Fault} :
    receiveChunk bytes s = .fault f ↔ rxChunk s.cfg bytes s.parser = .error f := by
  cases h : rxChunk s.cfg bytes s.parser <;> simp [receiveChunk, h]

theorem exec_decRx_fault_iff {b : Byte} {s : State} {f : Fault} :
    exec (.decRx b) s = .fault f ↔ rxByte s.cfg b s.parser = .error f := by
  cases h : rxByte s.cfg b s.parser <;> simp [exec, execDecRx, h]

theorem execEncFrame_ne_fault (op : Byte) (wf : BitVec 1) (val : List Byte) (s : State) (f : Fault) :
    execEncFrame op wf val s ≠ .fault f := by
  unfold execEncFrame
  split <;> simp

theorem drainDistanceResults_ne_fault (s : State) (f : Fault) : drainDistanceResults s ≠ .fault f := by
  unfold drainDistanceResults
  split <;> simp

/-- An operation faults only where a byte it gives to the decoder does (R233). -/
theorem exec_fault {i : Instr} {s : State} {f : Fault} (h : exec i s = .fault f) :
    ∃ bytes, rxAll s.cfg bytes s.parser = .error f := by
  cases i with
  | decRx b => exact ⟨[b], rxAll_cons_of_error [] (exec_decRx_fault_iff.mp h)⟩
  | decRxn bytes => exact ⟨bytes, rxChunk_error_iff.mp (receiveChunk_fault_iff.mp h)⟩
  | frameRx wf rsv payload ck => exact ⟨_, rxChunk_error_iff.mp (receiveChunk_fault_iff.mp h)⟩
  | msgProductName | msgDistanceSample => exact ⟨_, rxChunk_error_iff.mp (receiveAndDeliver_fault h)⟩
  | encFrame op wf val => exact absurd h (execEncFrame_ne_fault op wf val s f)
  | _ => exact nomatch h

theorem poll_fault {s : State} {f : Fault} (h : poll s = .fault f) :
    ∃ bytes, rxAll s.cfg bytes s.parser = .error f := by
  unfold poll at h
  split at h
  · exact ⟨s.rx, rxChunk_error_iff.mp (receiveAndDeliver_fault (s := { s with rx := [] }) h)⟩
  · exact nomatch h

/-- Of the calls of the layer above only the poll reaches the decoder (R98). -/
theorem serveCall_fault {call : HostCall} {s : State} {f : Fault} (h : serveCall call s = .fault f) :
    ∃ bytes, rxAll s.cfg bytes s.parser = .error f := by
  cases call with
  | poll => exact poll_fault h
  | drainDistanceResults => exact absurd h (drainDistanceResults_ne_fault s f)
  | _ => exact nomatch h

theorem serve_fault {input : Input} {s : State} {f : Fault} (h : serve input s = .fault f) :
    ∃ bytes, rxAll s.cfg bytes s.parser = .error f := by
  cases input with
  | command bytes =>
    cases hdec : decode bytes with
    | ok decoded =>
      rw [serve_command_of_decode_ok hdec] at h
      exact exec_fault (thenHandOver_fault h)
    | error e =>
      rw [serve_command_of_decode_error hdec] at h
      exact nomatch h
  | call c => exact serveCall_fault h
  | arrive bytes => exact nomatch h

theorem step_fault {s : State} {f : Fault} (h : step s = .fault f) :
    ∃ bytes, rxAll s.cfg bytes s.parser = .error f := by
  cases hin : s.inputs with
  | nil => simp [step, hin] at h
  | cons input rest =>
    rw [step_of_inputs_cons hin] at h
    exact serve_fault (s := { s with inputs := rest }) h

/-! ### No byte faults under the invariant -/

/-- Under R26 and a legal configuration the decoder takes any bytes (R160, R176). -/
theorem rxAll_of_inv {c : Config} {p : ParserState} (hc : c.legal) (hp : p.Inv c) (bytes : List Byte) :
    ∃ es q, rxAll c bytes p = .ok (es, q) ∧ q.Inv c := by
  induction bytes generalizing p with
  | nil => exact ⟨[], p, rfl, hp⟩
  | cons b bytes ih =>
    obtain ⟨es, q, hrest, hq⟩ := ih (rxRule_keeps_inv hc hp (e := (rxRule c b p).1) rfl)
    exact ⟨_, q, by rw [rxAll_cons (rxByte_eq hp.clear), hrest]; rfl, hq⟩

/-- Settles O38: only the decoder's bytes can fault, and under the invariant none does; what a step leaves has the invariant,
which has no overflow. -/
theorem noStepOverflowsBuffer : Obligations.NoStepOverflowsBuffer := by
  refine fun s hs => ⟨fun f h => ?_, fun t h => ?_⟩
  · obtain ⟨bytes, herror⟩ := step_fault h
    obtain ⟨es, q, hok, _⟩ := rxAll_of_inv hs.legal hs.parser bytes
    exact nomatch herror.symm.trans hok
  · obtain ⟨ht, _⟩ := everyStepKeepsInvariant s t hs h
    exact ht.parser.clear

theorem receiveChunk_of_inv {s : State} (hs : s.Inv) (bytes : List Byte) :
    ∃ es p, p.Inv s.cfg ∧ receiveChunk bytes s = .next ((s.setParser p).answer (.events es)) := by
  obtain ⟨es, p, hall, hp⟩ := rxAll_of_inv hs.legal hs.parser bytes
  exact ⟨_, p, hp, receiveChunk_of_ok (rxChunk_of_rxAll hall)⟩

/-- Settles O30: a received frame is the chunk of its bytes. -/
theorem decoderNeverRefusesBytes : Obligations.DecoderNeverRefusesBytes := by
  refine fun s hs => ⟨fun b => ?_, receiveChunk_of_inv hs, fun wf rsv payload ck => receiveChunk_of_inv hs _⟩
  exact ⟨_, _, rxRule_keeps_inv hs.legal hs.parser rfl, exec_decRx_of_rxRule hs.parser.clear rfl⟩

/-! ### No cell above the longest frame is written -/

/-- Under R26 a byte is stored at `cnt` or at index 0, and `cnt` is at most 1027 (R176). -/
theorem rxRule_cell?_of_inv {c : Config} {b : Byte} {p q : ParserState} {e : Event} {a : Nat} (hp : p.Inv c)
    (h : rxRule c b p = (e, q)) (ha : 1028 ≤ a) : q.buf.cell? a = p.buf.cell? a := by
  have hle := cnt_le_of_inv hp
  exact rxRule_cell?_of_ne h (by split <;> omega)

theorem rxAll_cell?_of_inv {c : Config} {bytes : List Byte} {p q : ParserState} {es : List Event} {a : Nat}
    (hc : c.legal) (hp : p.Inv c) (h : rxAll c bytes p = .ok (es, q)) (ha : 1028 ≤ a) :
    q.buf.cell? a = p.buf.cell? a := by
  induction bytes generalizing p es with
  | nil =>
    obtain ⟨_, rfl⟩ := Prod.mk.inj (Except.ok.inj h)
    rfl
  | cons b bytes ih =>
    obtain ⟨e, r, es', hbyte, hrest, _⟩ := rxAll_cons_ok h
    obtain ⟨_, hrule⟩ := rxByte_ok hbyte
    exact (ih (rxRule_keeps_inv hc hp hrule) hrest).trans (rxRule_cell?_of_inv hp hrule ha)

theorem ParserMove.cell?_of_inv {c : Config} {p q : ParserState} {a : Nat} (h : ParserMove c p q) (hc : c.legal)
    (hp : p.Inv c) (ha : 1028 ≤ a) : q.buf.cell? a = p.buf.cell? a := by
  cases h with
  | reset hq => rw [hq, ParserState.decReset_buf]
  | fed bytes es hrx => exact rxAll_cell?_of_inv hc hp hrx ha

/-- Settles O32: only the effects that move ParserState touch the buffer. -/
theorem storesStayBelowFrameBound : Obligations.StoresStayBelowFrameBound := by
  intro i s t hs h a ha
  cases exec_effect h with
  | wroteCrc v hsel ht => simp [ht]
  | readChecksum v hsel ht => simp [ht]
  | sent bytes hsel ht => simp [ht]
  | decoded p r hsel hmove ht =>
    rw [ht]
    exact hmove.cell?_of_inv hs.legal hs.parser ha
  | delivered p es hsel hmove ht =>
    obtain ⟨_, hparser, _⟩ := handOverAll_frame es ((s.setParser p).answer (.handed es))
    rw [ht, hparser]
    exact hmove.cell?_of_inv hs.legal hs.parser ha

end Sys2Proof.Machine

namespace Sys2Proof.Machine

/-! ### The rule of each state, where the buffer has room -/

section

variable {c : Config} {p : ParserState}

/-- The start byte in `WAIT_START`: the count is reset before the store (R163). -/
theorem rxRule_waitStart_of_startByte (hst : p.st = .waitStart) (hcap : 0 < c.bufCap) :
    rxRule c startByte p =
      (.none, { ({ p with cnt := 0 } : ParserState).stored startByte with st := .waitFlags }) := by
  have happend := append_ok (c := c) (p := { p with cnt := 0 }) startByte hcap
  have hrule : rxRule c startByte p = rxWaitStart c startByte p := by simp only [rxRule, hst]
  simp only [hrule, rxWaitStart, if_pos, happend]

theorem rxRule_waitFlags (b : Byte) (hst : p.st = .waitFlags) (hroom : p.cnt.toNat < c.bufCap) :
    rxRule c b p = if (p.stored b).cnt.toNat = 3 then flagsComplete (p.stored b) else (.none, p.stored b) := by
  simp only [rxRule, hst, rxWaitFlags, append_ok b hroom]

theorem rxRule_waitPayload (b : Byte) (hst : p.st = .waitPayload) (hroom : p.cnt.toNat < c.bufCap) :
    rxRule c b p =
      (.none, if (p.stored b).cnt.toNat = 3 + p.plen.toNat then { p.stored b with st := .waitChecksum }
        else p.stored b) := by
  simp only [rxRule, hst, rxWaitPayload, append_ok b hroom]
  rfl

theorem rxRule_waitChecksum (b : Byte) (hst : p.st = .waitChecksum) (hroom : p.cnt.toNat < c.bufCap) :
    rxRule c b p =
      if (p.stored b).cnt.toNat = 5 + p.plen.toNat then takeEvent (frameVerdict (p.stored b)) (p.stored b)
      else (.none, p.stored b) := by
  simp only [rxRule, hst, rxWaitChecksum, append_ok b hroom]
  rfl

end

/-- Settles O16: the two arms of the rule. -/
theorem waitStartLooksForStartByte : Obligations.WaitStartLooksForStartByte := by
  refine fun s b hc hclear hst => ⟨fun hb => ?_, fun hb => ?_⟩
  · exact exec_decRx_of_rxRule hclear (rxRule_waitStart_of_ne hst hb)
  · have hcap : 0 < s.cfg.bufCap := Nat.lt_of_lt_of_le (by decide) hc
    rw [hb]
    exact exec_decRx_of_rxRule hclear (rxRule_waitStart_of_startByte hst hcap)

/-- The length field keeps all ten of its bits (R164). -/
theorem flagsPlenRaw_eq_zero_iff (flags : Half) : flagsPlenRaw flags = 0 ↔ flagsPlen flags = 0 := by
  rw [BitVec.toNat_eq, BitVec.toNat_eq, flagsPlen_toNat]
  rfl

/-- Settles O17: `cnt` tells the two flags bytes apart, and the second is read where it was stored. -/
theorem waitFlagsDecodesHeader : Obligations.WaitFlagsDecodesHeader := by
  refine ⟨fun s b hc hclear hst => ⟨fun hcnt => ?_, fun hcnt => ?_⟩,
    fun flags => ⟨flagsPlenRaw_le flags, flagsPlen_toNat flags⟩⟩
  · have hroom : s.parser.cnt.toNat < s.cfg.bufCap := Nat.lt_of_lt_of_le (by rw [hcnt]; decide) hc
    have hrule := rxRule_waitFlags b hst hroom
    rw [if_neg (by simp [hcnt])] at hrule
    rw [exec_decRx_of_rxRule hclear hrule]
    simp only [ParserState.stored, hcnt]
    rfl
  · have hroom : s.parser.cnt.toNat < s.cfg.bufCap := Nat.lt_of_lt_of_le (by rw [hcnt]; decide) hc
    have hlt : s.parser.cnt.toNat < 2047 := by simp [hcnt]
    have hb1 := byteAt_stored_of_lt (i := 1) b hlt (by simp [hcnt])
    have hb2 : (s.parser.stored b).byteAt 2 = b := by simpa [hcnt] using byteAt_stored_self b hlt
    have hrule := rxRule_waitFlags b hst hroom
    rw [if_pos (by simp [hcnt]), flagsComplete_eq, hb1, hb2] at hrule
    rw [exec_decRx_of_rxRule hclear hrule]
    simp only [ParserState.stored, hcnt, hclear, flagsPlenRaw_eq_zero_iff]
    rfl

/-- Settles O18: under the invariant the count has not wrapped. -/
theorem waitPayloadStoresPayload : Obligations.WaitPayloadStoresPayload := by
  intro s b hs hst
  have hle := cnt_le_of_inv hs.parser
  have hcount := stored_cnt_toNat (p := s.parser) b (by omega)
  have hrule := rxRule_waitPayload b hst (Nat.lt_of_le_of_lt hle hs.legal)
  rw [exec_decRx_of_rxRule hs.parser.clear hrule, hcount]
  split
  · rfl
  · rw [← hst]
    rfl

/-! ### The verdict on a frame -/

/-- A store leaves the first bytes below it as they were. -/
theorem bytesTo_stored_of_le {p : ParserState} {n : Nat} (b : Byte) (hlt : p.cnt.toNat < 2047) (hn : n ≤ p.cnt.toNat) :
    (p.stored b).bytesTo n = p.bytesTo n :=
  List.map_congr_left fun _ hi => byteAt_stored_of_lt b hlt (Nat.lt_of_lt_of_le (List.mem_range.mp hi) hn)

/-- The second checksum byte is compared together with the first one, over all bytes before both (R166, R120). -/
theorem frameVerdict_stored {p : ParserState} (b : Byte) (hcnt : p.cnt.toNat = 4 + p.plen.toNat) :
    frameVerdict (p.stored b) =
      frameEvent (p.bytesTo (3 + p.plen.toNat)) p.plen p.wflag (le16 (p.byteAt (3 + p.plen.toNat)) b) := by
  have hplen := p.plen.isLt
  have hlt : p.cnt.toNat < 2047 := by omega
  have hcount : (p.stored b).cnt.toNat = 5 + p.plen.toNat := by
    rw [stored_cnt_toNat b hlt]
    omega
  have hn2 : 5 + p.plen.toNat - 2 = 3 + p.plen.toNat := by omega
  have hn1 : 5 + p.plen.toNat - 1 = p.cnt.toNat := by omega
  simp only [frameVerdict, frameEvent, hcount, hn1, hn2, ParserState.stored_plen, ParserState.stored_wflag,
    byteAt_stored_self b hlt, byteAt_stored_of_lt b hlt (show 3 + p.plen.toNat < p.cnt.toNat by omega),
    bytesTo_stored_of_le b hlt (show 3 + p.plen.toNat ≤ p.cnt.toNat by omega)]

/-- Settles O19: under the invariant the count tells the two checksum bytes apart. -/
theorem waitChecksumVerifiesFrame : Obligations.WaitChecksumVerifiesFrame := by
  intro s b hs hst
  have hle := cnt_le_of_inv hs.parser
  have hcount := stored_cnt_toNat (p := s.parser) b (by omega)
  have hrule := rxRule_waitChecksum b hst (Nat.lt_of_le_of_lt hle hs.legal)
  refine ⟨fun hcnt => ?_, fun hcnt => ?_⟩
  · rw [if_neg (by omega)] at hrule
    exact exec_decRx_of_rxRule hs.parser.clear hrule
  · rw [if_pos (by omega), frameVerdict_stored b hcnt] at hrule
    rw [exec_decRx_of_rxRule hs.parser.clear hrule]
    simp only [ParserState.parserReset, ParserState.stored_overflowed, hs.parser.clear]
    rfl

theorem frameEvent_eq_frame {frame bytes : List Byte} {plen n : BitVec 10} {wflag w : BitVec 1} {ck : Half}
    (h : frameEvent frame plen wflag ck = .frame bytes n w) :
    ck = crc16 frame ∧ frame = bytes ∧ plen = n ∧ wflag = w := by
  unfold frameEvent at h
  split at h
  · next hck => exact ⟨hck, by simpa using h⟩
  · exact nomatch h

/-- Only the second checksum byte answers anything but an overflow: the verdict (R166, R177). -/
theorem rxRule_event {c : Config} {b : Byte} {p q : ParserState} {e : Event} (h : rxRule c b p = (e, q)) :
    e = .none ∨ e = .overflow ∨
      (p.st = .waitChecksum ∧ (p.stored b).cnt.toNat = 5 + p.plen.toNat ∧ e = frameVerdict (p.stored b)) := by
  rcases rxRule_cases h with ⟨_, _, he, _⟩ | ⟨_, _, _, he, _⟩ | ⟨_, _, _, he, _⟩ | ⟨_, _, he, _⟩ |
    ⟨_, _, _, he, _⟩ | ⟨_, _, _, he⟩ | ⟨_, _, he, _⟩ | ⟨_, _, _, he, _⟩ | ⟨hst, _, hcount, he, _⟩
  · exact .inl he
  · exact .inl he
  · exact .inr (.inl he)
  · exact .inr (.inl he)
  · exact .inl he
  · rw [flagsComplete_eq] at he
    exact .inl (congrArg Prod.fst he)
  · exact .inl he
  · exact .inl he
  · exact .inr (.inr ⟨hst, hcount, he⟩)

theorem bytesTo_length (p : ParserState) (n : Nat) : (p.bytesTo n).length = n := by
  simp [ParserState.bytesTo]

/-- The header and what follows it (R80). -/
theorem bytesTo_three_add (p : ParserState) (n : Nat) :
    p.bytesTo (3 + n) =
      p.byteAt 0 :: p.byteAt 1 :: p.byteAt 2 :: (List.range n).map fun i => p.byteAt (3 + i) := by
  simp [ParserState.bytesTo, List.range_add, List.range_succ, Function.comp_def]

/-- Settles O23: the header that R26 keeps is the head of the delivered bytes, and the verdict compared their checksum. -/
theorem deliveredFrameHoldsHeaderAndPayload : Obligations.DeliveredFrameHoldsHeaderAndPayload := by
  intro s t b bytes n w hs h hresult
  obtain ⟨e, q, hbyte, rfl⟩ := execDecRx_next h
  obtain ⟨_, hrule⟩ := rxByte_ok hbyte
  obtain rfl : e = .frame bytes n w := Result.event.inj hresult
  obtain ⟨hst, hcount, hverdict⟩ := ((rxRule_event hrule).resolve_left nofun).resolve_left nofun
  have hle := cnt_le_of_inv hs.parser
  rw [stored_cnt_toNat b (by omega)] at hcount
  rw [frameVerdict_stored b (by omega)] at hverdict
  obtain ⟨hck, rfl, rfl, rfl⟩ := frameEvent_eq_frame hverdict.symm
  obtain ⟨_, _, _, hchecksum⟩ := hs.parser.tag
  obtain ⟨_, _, h0, hplen, hwflag⟩ := hchecksum hst
  have hbytes := bytesTo_three_add s.parser s.parser.plen.toNat
  rw [h0] at hbytes
  refine ⟨bytesTo_length _ _, ⟨_, _, _, hbytes, by simp, hplen.symm, hwflag.symm⟩, ?_, ?_⟩
  · rw [← hck, lo8_le16]
  · rw [← hck, hi8_le16]


/-! ### Chunks of bytes -/

/-- Settles O20: `DEC.RESET` by its definition. -/
theorem decResetClearsRegisters : Obligations.DecResetClearsRegisters := ⟨rfl, fun _ => rfl⟩

/-- A run of `DEC.RX` over bytes that the decoder takes: the event of each, and ParserState and the last answer changed. -/
theorem runOps_decRx_of_ok {bytes : List Byte} {s : State} {es : List Event} {q : ParserState}
    (h : rxAll s.cfg bytes s.parser = .ok (es, q)) :
    ∃ t, runOps (bytes.map Instr.decRx) s = some (es.map Result.event, t) ∧
      ∀ r, t.answer r = (s.setParser q).answer r := by
  induction bytes generalizing s es with
  | nil =>
    obtain ⟨rfl, rfl⟩ := Prod.mk.inj (Except.ok.inj h)
    exact ⟨s, rfl, fun _ => rfl⟩
  | cons b bytes ih =>
    obtain ⟨e, p, es', hbyte, hrest, rfl⟩ := rxAll_cons_ok h
    obtain ⟨hclear, hrule⟩ := rxByte_ok hbyte
    obtain ⟨t, hrun, ht⟩ := ih (s := (s.setParser p).answer (.event e)) hrest
    refine ⟨t, ?_, ht⟩
    rw [List.map_cons, runOps_cons_of_next (exec_decRx_of_rxRule hclear hrule), hrun]
    rfl

/-- A stream faults at its first byte or after it. -/
theorem rxAll_cons_error {c : Config} {b : Byte} {bytes : List Byte} {p : ParserState} {f : Fault}
    (h : rxAll c (b :: bytes) p = .error f) :
    rxByte c b p = .error f ∨ ∃ e q, rxByte c b p = .ok (e, q) ∧ rxAll c bytes q = .error f := by
  unfold rxAll at h
  split at h
  · next g hbyte => exact .inl (hbyte.trans (congrArg Except.error (Except.error.inj h)))
  · next e q hbyte =>
    split at h
    · next g hrest => exact .inr ⟨e, q, hbyte, hrest.trans (congrArg Except.error (Except.error.inj h))⟩
    · exact nomatch h

theorem runOps_cons_of_fault {i : Instr} {s : State} {f : Fault} (is : List Instr) (h : exec i s = .fault f) :
    runOps (i :: is) s = none := by
  simp only [runOps, h]

theorem runOps_decRx_of_error {bytes : List Byte} {s : State} {f : Fault}
    (h : rxAll s.cfg bytes s.parser = .error f) : runOps (bytes.map Instr.decRx) s = none := by
  induction bytes generalizing s with
  | nil => exact nomatch h
  | cons b bytes ih =>
    rcases rxAll_cons_error h with hbyte | ⟨e, p, hbyte, hrest⟩
    · exact runOps_cons_of_fault _ (exec_decRx_fault_iff.mpr hbyte)
    · obtain ⟨hclear, hrule⟩ := rxByte_ok hbyte
      rw [List.map_cons, runOps_cons_of_next (exec_decRx_of_rxRule hclear hrule),
        ih (s := (s.setParser p).answer (.event e)) hrest]
      rfl

theorem isSome_eq_decide_ne_none (e : Event) : e.isSome = decide (e ≠ .none) := by
  cases e <;> rfl

/-- Settles O21: both are the run of the rules over the bytes, which completes or faults. -/
theorem chunkIsBytewise : Obligations.ChunkIsBytewise := by
  refine ⟨fun _ => rfl, fun bytes s => ?_⟩
  cases hall : rxAll s.cfg bytes s.parser with
  | error f =>
    rw [runOps_decRx_of_error hall]
    exact receiveChunk_fault_iff.mpr (rxChunk_error_iff.mpr hall)
  | ok x =>
    obtain ⟨es, q⟩ := x
    obtain ⟨t, hrun, ht⟩ := runOps_decRx_of_ok hall
    rw [hrun]
    refine ⟨es, rfl, ?_⟩
    have hfilter : (es.filter fun e => decide (e ≠ .none)) = es.filter Event.isSome :=
      List.filter_congr fun e _ => (isSome_eq_decide_ne_none e).symm
    rw [hfilter]
    exact (receiveChunk_of_ok (rxChunk_of_rxAll hall)).trans (congrArg Host.Outcome.next (ht _).symm)

/-- Settles O22: a chunk of two parts is the second part's chunk where the first part's chunk ended. -/
theorem chunkingCannotBeObserved : Obligations.ChunkingCannotBeObserved := by
  refine fun xs ys s => ⟨fun f hxs => ?_, fun t hxs => ?_⟩
  · refine receiveChunk_fault_iff.mpr ?_
    rw [rxChunk_append_eq_bind, receiveChunk_fault_iff.mp hxs]
    rfl
  · obtain ⟨es, p, hfirst, rfl⟩ := receiveChunk_next hxs
    have happend : rxChunk s.cfg (xs ++ ys) s.parser = (rxChunk s.cfg ys p).map fun y => (es ++ y.1, y.2) := by
      rw [rxChunk_append_eq_bind, hfirst]
      rfl
    refine ⟨fun f hys => ?_, fun u hys => ?_⟩
    · have hsecond : rxChunk s.cfg ys p = .error f := receiveChunk_fault_iff.mp hys
      refine receiveChunk_fault_iff.mpr ?_
      rw [happend, hsecond]
      rfl
    · obtain ⟨fs, q, (hsecond : rxChunk s.cfg ys p = .ok (fs, q)), rfl⟩ := receiveChunk_next hys
      rw [hsecond] at happend
      exact ⟨es, fs, rfl, rfl, receiveChunk_of_ok happend⟩

/-! ### The events of an answer -/

/-- The events in an answer, handed over or not. -/
def Result.answered : Result → List Event
  | .event e => [e]
  | .events es => es
  | .handed es => es
  | .none => []
  | .checksum _ => []
  | .bytes _ => []
  | .samples _ => []

/-- An event is the answer of a byte the decoder was given. -/
def AnsweredBy (s : State) (e : Event) : Prop :=
  ∃ bytes es q, rxAll s.cfg bytes s.parser = .ok (es, q) ∧ e ∈ es

theorem answeredBy_of_rxChunk {s : State} {bytes : List Byte} {es : List Event} {q : ParserState} {e : Event}
    (h : rxChunk s.cfg bytes s.parser = .ok (es, q)) (he : e ∈ es) : AnsweredBy s e := by
  obtain ⟨all, hall, rfl⟩ := rxChunk_ok h
  exact ⟨bytes, all, q, hall, List.mem_of_mem_filter he⟩

theorem answeredBy_of_receiveChunk {s t : State} {bytes : List Byte} {e : Event} (h : receiveChunk bytes s = .next t)
    (he : e ∈ t.result.answered) : AnsweredBy s e := by
  obtain ⟨es, p, hchunk, rfl⟩ := receiveChunk_next h
  exact answeredBy_of_rxChunk hchunk he

theorem answeredBy_of_receiveAndDeliver {s t : State} {bytes : List Byte} {e : Event}
    (h : receiveAndDeliver bytes s = .next t) (he : e ∈ t.result.answered) : AnsweredBy s e := by
  obtain ⟨es, p, hchunk, _, rfl⟩ := receiveAndDeliver_next h
  obtain ⟨_, _, _, hresult, _⟩ := handOverAll_frame es ((s.setParser p).answer (.handed es))
  rw [hresult] at he
  exact answeredBy_of_rxChunk hchunk he

/-- The events an operation answers are the decoder's, one of each byte (R162). -/
theorem answeredBy_of_exec {i : Instr} {s t : State} {e : Event} (h : exec i s = .next t)
    (he : e ∈ t.result.answered) : AnsweredBy s e := by
  cases i with
  | decRx b =>
    obtain ⟨e', p, hbyte, rfl⟩ := execDecRx_next h
    exact ⟨[b], [e'], p, by rw [rxAll_cons hbyte]; rfl, he⟩
  | decRxn | frameRx => exact answeredBy_of_receiveChunk h he
  | msgProductName | msgDistanceSample => exact answeredBy_of_receiveAndDeliver h he
  | encFrame op wf val =>
    rw [execEncFrame_next h] at he
    exact nomatch he
  | selD | selE | selF => exact nomatch h
  | _ =>
    obtain rfl := Host.Outcome.next.inj h
    exact nomatch he

theorem answeredBy_of_poll {s t : State} {e : Event} (h : poll s = .next t) (he : e ∈ t.result.answered) :
    AnsweredBy s e := by
  unfold poll at h
  split at h
  · exact answeredBy_of_receiveAndDeliver (s := { s with rx := [] }) h he
  · obtain rfl := Host.Outcome.next.inj h
    exact nomatch he

theorem frameVerdict_ne_framingErr (q : ParserState) (n : Half) : frameVerdict q ≠ .framingErr n := by
  simp only [frameVerdict]
  split <;> simp

/-- The ten bits of the length field cannot exceed `MAX_PLEN`, so no rule comes to the framing error (R175). -/
theorem rxRule_ne_framingErr {c : Config} {b : Byte} {p q : ParserState} {e : Event} (h : rxRule c b p = (e, q))
    (n : Half) : e ≠ .framingErr n := by
  rcases rxRule_event h with rfl | rfl | ⟨_, _, rfl⟩
  · simp
  · simp
  · exact frameVerdict_ne_framingErr _ n

theorem rxAll_ne_framingErr {c : Config} {bytes : List Byte} {p q : ParserState} {es : List Event}
    (h : rxAll c bytes p = .ok (es, q)) (n : Half) : Event.framingErr n ∉ es := by
  induction bytes generalizing p es with
  | nil =>
    obtain ⟨rfl, _⟩ := Prod.mk.inj (Except.ok.inj h)
    exact List.not_mem_nil
  | cons b bytes ih =>
    obtain ⟨e, r, es', hbyte, hrest, rfl⟩ := rxAll_cons_ok h
    obtain ⟨_, hrule⟩ := rxByte_ok hbyte
    exact List.not_mem_cons_of_ne_of_not_mem (rxRule_ne_framingErr hrule n).symm (ih hrest)

/-- Settles O28: an answer holds events of the decoder's bytes only. -/
theorem framingErrorCannotOccur : Obligations.FramingErrorCannotOccur := by
  refine ⟨fun flags => Nat.not_lt.mpr (flagsPlenRaw_le flags), fun s t h n => ?_⟩
  have hnot : Event.framingErr n ∉ t.result.answered := by
    intro hmem
    have hby : AnsweredBy s (.framingErr n) := by
      rcases h with ⟨i, h⟩ | h
      · exact answeredBy_of_exec h hmem
      · exact answeredBy_of_poll h hmem
    obtain ⟨bytes, es, q, hall, hes⟩ := hby
    exact rxAll_ne_framingErr hall n hes
  refine ⟨fun hresult => ?_, fun es hresult hmem => ?_⟩
  · rw [hresult] at hnot
    exact hnot List.mem_cons_self
  · rcases hresult with hresult | hresult <;> rw [hresult] at hnot <;> exact hnot hmem

end Sys2Proof.Machine

namespace Sys2Proof.Machine

/-! ### The interpreter: what it makes of a frame -/

theorem interpret_zero (frame : List Byte) : interpret frame 0 = .ok .unknown := rfl

/-- The data after a frame's opcode byte are read by the opcode and their number (R200 to R203). -/
theorem interpret_frame (h0 h1 h2 op : Byte) (data : List Byte) :
    interpret (h0 :: h1 :: h2 :: op :: data) (1 + data.length) =
      if op = opcProductName ∧ data.length = 16 then .ok (.identity (decodeText data))
      else if op = opcDistance then interpretDistance data
      else .ok .unknown := by
  have hplen : 1 + data.length ≠ 0 := by omega
  have hdata : 1 + data.length - 1 = data.length := by omega
  simp only [interpret, if_neg hplen, hdata, List.drop_succ_cons, List.drop_zero]
  split
  · next hname => rw [List.take_of_length_le (Nat.le_of_eq hname.2)]
  · rfl

theorem interpret_productName (h0 h1 h2 : Byte) {text : List Byte} (h : text.length = 16) :
    interpret (h0 :: h1 :: h2 :: opcProductName :: text) (1 + text.length) = .ok (.identity (decodeText text)) := by
  rw [interpret_frame, if_pos ⟨rfl, h⟩]

theorem interpret_opcode_zero_of_length_ne (h0 h1 h2 : Byte) {data : List Byte} (h : data.length ≠ 16) :
    interpret (h0 :: h1 :: h2 :: opcProductName :: data) (1 + data.length) = .ok .unknown := by
  rw [interpret_frame, if_neg (fun hname => h hname.2), if_neg (by decide)]

theorem interpret_distance (h0 h1 h2 : Byte) (data : List Byte) :
    interpret (h0 :: h1 :: h2 :: opcDistance :: data) (1 + data.length) = interpretDistance data := by
  rw [interpret_frame, if_neg (fun hname => absurd hname.1 (by decide)), if_pos rfl]

theorem interpret_unknown (h0 h1 h2 : Byte) {op : Byte} (data : List Byte) (hname : op ≠ opcProductName)
    (hdistance : op ≠ opcDistance) : interpret (h0 :: h1 :: h2 :: op :: data) (1 + data.length) = .ok .unknown := by
  rw [interpret_frame, if_neg (fun h => hname h.1), if_neg hdistance]

theorem interpretDistance_short {data : List Byte} (h : data.length < 6) :
    interpretDistance data = .error (.interpreterShort data.length) := by
  unfold interpretDistance
  split
  · simp at h
    omega
  · rfl

/-- The three fields, as they are sent, are read back (R202). -/
theorem interpretDistance_fields (first last angle : Half) (extra : List Byte) :
    interpretDistance (bytesLe16 first ++ bytesLe16 last ++ bytesLe16 angle ++ extra) =
      .ok (.distanceSample (distanceSample first last angle)) := by
  have hread : interpretDistance (bytesLe16 first ++ bytesLe16 last ++ bytesLe16 angle ++ extra) =
      .ok (.distanceSample (distanceSample (le16 (lo8 first) (hi8 first)) (le16 (lo8 last) (hi8 last))
        (le16 (lo8 angle) (hi8 angle)))) := rfl
  rw [hread, le16_lo8_hi8, le16_lo8_hi8, le16_lo8_hi8]

/-- Settles O50: the opcode chooses the row, the number of data bytes the meaning within it. -/
theorem interpreterActsByOpcode : Obligations.InterpreterActsByOpcode := by
  refine ⟨interpret_zero, fun h0 h1 h2 op data => ⟨?_, ?_, ?_, ?_, interpret_unknown h0 h1 h2 data⟩⟩
  · rintro rfl hlen
    exact interpret_productName h0 h1 h2 hlen
  · rintro rfl hlen
    exact interpret_opcode_zero_of_length_ne h0 h1 h2 hlen
  · rintro rfl f0 f1 l0 l1 a0 a1 extra rfl
    exact interpret_distance h0 h1 h2 _
  · rintro rfl hlen
    exact (interpret_distance h0 h1 h2 data).trans (interpretDistance_short hlen)

/-- A text of printable bytes is their codes, with nothing trimmed (R201). -/
theorem decodeText_of_printable {text : List Byte} (h : ∀ b ∈ text, 0x20 ≤ b.toNat ∧ b.toNat ≤ 0x7E) :
    decodeText text = text.map BitVec.toNat :=
  if_pos (List.all_eq_true.mpr fun b hb => by simpa using h b hb)

/-! ### The hand-over of one event -/

theorem handOver_frame_of_ok {bytes : List Byte} {n : BitVec 10} {m : Message} (w : BitVec 1) (s : State)
    (h : interpret bytes n.toNat = .ok m) : handOver (.frame bytes n w) s = acceptMessage m s := by
  simp only [handOver, h]

theorem handOver_frame_of_error {bytes : List Byte} {n : BitVec 10} {r : Refusal} (w : BitVec 1) (s : State)
    (h : interpret bytes n.toNat = .error r) : handOver (.frame bytes n w) s = s.refuseFrame r := by
  simp only [handOver, h]

theorem refusal?_frame_eq_some_iff {bytes : List Byte} {n : BitVec 10} {w : BitVec 1} {r : Refusal} :
    (Event.frame bytes n w).refusal? = some r ↔ interpret bytes n.toNat = .error r := by
  cases h : interpret bytes n.toNat <;> simp [Event.refusal?, h]

theorem refusal?_frame_of_ok {bytes : List Byte} {n : BitVec 10} {m : Message} (w : BitVec 1)
    (h : interpret bytes n.toNat = .ok m) : (Event.frame bytes n w).refusal? = none := by
  simp only [Event.refusal?, h]

/-- The interpreter sees frames only (R200). -/
theorem refusal?_of_ne_frame {e : Event} (h : ∀ bytes n w, e ≠ .frame bytes n w) : e.refusal? = none := by
  cases e with
  | frame bytes n w => exact absurd rfl (h bytes n w)
  | none | checksumErr | framingErr | overflow => rfl

/-- Settles O57: the hand-over ends the step of an operation, on the events that its answer still holds. -/
theorem eventsReachInterpreterInTheirStep : Obligations.EventsReachInterpreterInTheirStep := by
  refine ⟨fun s t bytes tail rest i hin hdec hexec => ?_, fun _ => rfl, fun _ _ _ => rfl,
    fun bytes n w s => ⟨fun text h => ?_, fun d h => ?_, fun h => ?_, fun r h => ?_⟩, fun _ _ _ => rfl,
    fun _ _ => ⟨rfl, rfl, rfl⟩⟩
  · have hstep : step s = .next (handOverAll t.result.eventList t) := by
      rw [step_of_command hin hdec, hexec]
      rfl
    exact ⟨fun e hresult => by rw [hstep, hresult]; rfl, fun es hresult => by rw [hstep, hresult]; rfl,
      fun es hresult => by rw [hstep, hresult]; rfl⟩
  · exact handOver_frame_of_ok w s h
  · exact handOver_frame_of_ok w s h
  · exact handOver_frame_of_ok w s h
  · exact handOver_frame_of_error w s h

/-! ### A chunk and the hand-over of its events -/

section

variable {bytes : List Byte} {s : State} {es : List Event} {p : ParserState}

theorem receiveAndDeliver_of_ok (hchunk : rxChunk s.cfg bytes s.parser = .ok (es, p))
    (hnone : es.findSome? Event.refusal? = none) :
    receiveAndDeliver bytes s = .next (handOverAll es ((s.setParser p).answer (.handed es))) := by
  simp only [receiveAndDeliver, hchunk, hnone]

theorem receiveAndDeliver_of_refusal {r : Refusal} (hchunk : rxChunk s.cfg bytes s.parser = .ok (es, p))
    (hsome : es.findSome? Event.refusal? = some r) : receiveAndDeliver bytes s = .refused r := by
  simp only [receiveAndDeliver, hchunk, hsome]

theorem receiveAndDeliver_of_error {f : Fault} (hchunk : rxChunk s.cfg bytes s.parser = .error f) :
    receiveAndDeliver bytes s = .fault f := by
  simp only [receiveAndDeliver, hchunk]

/-- The answer of `DEC.RXN` is its chunk's. -/
theorem rxChunk_of_exec_decRxn (h : exec (.decRxn bytes) s = .next { s with parser := p, result := .events es }) :
    rxChunk s.cfg bytes s.parser = .ok (es, p) := by
  obtain ⟨es', p', hchunk, ht⟩ := receiveChunk_next h
  obtain rfl : p = p' := congrArg State.parser ht
  obtain rfl : es = es' := Result.events.inj (congrArg State.result ht)
  exact hchunk

end

/-- What a poll and a received message row share: the chunk of `DEC.RXN` on its own bytes, then the hand-over; `u` is the
state before, with the bytes taken away. -/
theorem receiveAndDeliver_of_exec_decRxn {bytes : List Byte} {s u : State} (hcfg : u.cfg = s.cfg)
    (hparser : u.parser = s.parser) :
    (∀ f, exec (.decRxn bytes) s = .fault f → receiveAndDeliver bytes u = .fault f) ∧
    ∀ (es : List Event) (p : ParserState), exec (.decRxn bytes) s = .next { s with parser := p, result := .events es } →
      (es.findSome? Event.refusal? = none →
        receiveAndDeliver bytes u = .next (handOverAll es ((u.setParser p).answer (.handed es)))) ∧
      ∀ r, es.findSome? Event.refusal? = some r → receiveAndDeliver bytes u = .refused r := by
  refine ⟨fun f hfault => ?_, fun es p hnext => ?_⟩
  · have hchunk : rxChunk s.cfg bytes s.parser = .error f := receiveChunk_fault_iff.mp hfault
    exact receiveAndDeliver_of_error (by rw [hcfg, hparser, hchunk])
  · have hchunk : rxChunk u.cfg bytes u.parser = .ok (es, p) := by
      rw [hcfg, hparser, rxChunk_of_exec_decRxn hnext]
    exact ⟨receiveAndDeliver_of_ok hchunk, fun r => receiveAndDeliver_of_refusal hchunk⟩

/-- A poll on an open link takes the received bytes away and is the chunk of them (R213). -/
theorem poll_of_linkOpen {s : State} (h : s.linkOpen = true) :
    serveCall .poll s = receiveAndDeliver s.rx { s with rx := [] } := if_pos h

/-- Settles O59: all three are the chunk of `DEC.RXN` and then the hand-over. -/
theorem pollFeedsDecoderAndHandsOver : Obligations.PollFeedsDecoderAndHandsOver := by
  refine ⟨fun s hopen => ?_, fun i bytes hrow s => ?_, fun _ _ _ _ => refusal?_frame_eq_some_iff,
    fun _ => refusal?_of_ne_frame⟩
  · rw [poll_of_linkOpen hopen]
    exact receiveAndDeliver_of_exec_decRxn (u := { s with rx := [] }) rfl rfl
  · have hexec : exec i s = receiveAndDeliver bytes s := by
      rcases hrow with ⟨wf, rsv, text, ck, rfl, rfl⟩ | ⟨wf, rsv, first, last, angle, extra, ck, rfl, rfl⟩ <;> rfl
    rw [hexec]
    exact receiveAndDeliver_of_exec_decRxn rfl rfl

/-! ### A received message from `WAIT_START` -/

section

variable {frame : List Byte} {plen : BitVec 10} {m : Message}

theorem refusal?_frameEvent (wflag : BitVec 1) (ck : Half) (h : interpret frame plen.toNat = .ok m) :
    (frameEvent frame plen wflag ck).refusal? = none := by
  unfold frameEvent
  split
  · exact refusal?_frame_of_ok wflag h
  · rfl

/-- A verdict handed over: the message of the frame, or the warning (R200, R213). -/
theorem handOver_frameEvent (wflag : BitVec 1) (ck : Half) (s : State) (h : interpret frame plen.toNat = .ok m) :
    handOver (frameEvent frame plen wflag ck) s =
      if ck = crc16 frame then acceptMessage m s else s.report (.checksumWarning ck (crc16 frame)) := by
  unfold frameEvent
  split
  · exact handOver_frame_of_ok wflag s h
  · rfl

end

/-- A frame that the interpreter has a meaning for, on the wire from `WAIT_START`: its one event, handed over (R201, R202,
R213). -/
theorem receiveAndDeliver_wireBytes {s : State} {payload frame : List Byte} {n : BitVec 10} {m : Message} (wf : BitVec 1)
    (rsv : BitVec 5) (ck : Half) (hc : s.cfg.legal) (hclear : s.parser.overflowed = false)
    (hst : s.parser.st = .waitStart) (hn : n.toNat = payload.length)
    (hframe : frame = startByte :: (bytesLe16 (packFlags payload.length rsv wf) ++ payload))
    (hm : interpret frame payload.length = .ok m) :
    receiveAndDeliver (wireBytes wf rsv payload ck) s =
      .next (handOver (frameEvent frame n wf ck) { s with
        parser := { ParserState.reset with buf := s.parser.buf.putAll (frame ++ bytesLe16 ck) }
        result := .handed [frameEvent frame n wf ck] }) := by
  have hlen : payload.length ≤ 1023 := hn ▸ Nat.le_of_lt_succ n.isLt
  have hchunk := rxChunk_wireBytes wf rsv ck hc hclear hst hlen
  rw [← hframe, ← hn, BitVec.ofNat_toNat, BitVec.setWidth_eq] at hchunk
  have hnone : [frameEvent frame n wf ck].findSome? Event.refusal? = none := by
    rw [List.findSome?_singleton, refusal?_frameEvent wf ck (hn ▸ hm)]
  rw [receiveAndDeliver_of_ok hchunk hnone, hframe]
  rfl

/-- Settles O40: the frame's 16 bytes of text are an identity, which is reported as the warning is. -/
theorem productNameIsReported : Obligations.ProductNameIsReported := by
  refine ⟨?_, fun text => decodeText_of_printable⟩
  intro s wf rsv text ck hc hclear hst htext frame
  have hlen : (opcProductName :: text).length = 17 := congrArg (· + 1) htext
  have hm : interpret frame 17 = .ok (.identity (decodeText text)) := by
    have hname := interpret_productName 0xAA (lo8 (packFlags 17 rsv wf)) (hi8 (packFlags 17 rsv wf)) htext
    rwa [htext] at hname
  have hrow : exec (.msgProductName wf rsv text ck) s = _ :=
    receiveAndDeliver_wireBytes (frame := frame) (n := 17) wf rsv ck hc hclear hst hlen.symm (by rw [hlen])
      (by rw [hlen]; exact hm)
  refine ⟨_, Memory.cell?_putAll s.parser.buf (frame ++ bytesLe16 ck), ?_⟩
  rw [hrow, handOver_frameEvent wf ck _ hm]
  by_cases hck : ck = crc16 frame
  · simp only [if_pos hck, frameEvent]
    rfl
  · simp only [if_neg hck, frameEvent]
    rfl

/-- Settles O41: the message's payload gives its three fields back, whatever follows them. -/
theorem distanceSampleIsQueued : Obligations.DistanceSampleIsQueued := by
  refine ⟨?_, fun _ _ _ => ⟨rfl, rfl, rfl, rfl, rfl, rfl⟩⟩
  intro s wf rsv first last angle extra ck hc hclear hst hextra payload frame
  have hlen : payload.length = 7 + extra.length := Nat.add_comm extra.length 7
  have hn : (BitVec.ofNat 10 payload.length).toNat = payload.length := by
    rw [BitVec.toNat_ofNat]
    exact Nat.mod_eq_of_lt (by omega)
  have hm : interpret frame payload.length = .ok (.distanceSample (distanceSample first last angle)) := by
    have hdata := interpret_distance 0xAA (lo8 (packFlags payload.length rsv wf)) (hi8 (packFlags payload.length rsv wf))
      (bytesLe16 first ++ bytesLe16 last ++ bytesLe16 angle ++ extra)
    rw [interpretDistance_fields, Nat.add_comm] at hdata
    exact hdata
  have hrow : exec (.msgDistanceSample wf rsv first last angle extra ck) s = _ :=
    receiveAndDeliver_wireBytes (payload := payload) (frame := frame) wf rsv ck hc hclear hst hn rfl hm
  refine ⟨_, Memory.cell?_putAll s.parser.buf (frame ++ bytesLe16 ck), ?_⟩
  rw [hrow, handOver_frameEvent wf ck _ (hn.symm ▸ hm)]
  by_cases hck : ck = crc16 frame
  · simp only [if_pos hck, frameEvent]
    rfl
  · simp only [if_neg hck, frameEvent]
    rfl

/-! ### A poll over whole distance-sample frames -/

/-- The data of a distance-sample frame: the first and last distance and the angle (R202). -/
def sampleData (fields : Half × Half × Half) : List Byte :=
  bytesLe16 fields.1 ++ bytesLe16 fields.2.1 ++ bytesLe16 fields.2.2

/-- The event of a distance-sample frame. -/
def sampleEvent (fields : Half × Half × Half) : Event :=
  .frame (beforeChecksum opcDistance 0 (sampleData fields)) 7 0

theorem interpret_sampleFrame (fields : Half × Half × Half) :
    interpret (beforeChecksum opcDistance 0 (sampleData fields)) (7 : BitVec 10).toNat =
      .ok (.distanceSample (distanceSample fields.1 fields.2.1 fields.2.2)) := by
  have hfields := interpretDistance_fields fields.1 fields.2.1 fields.2.2 []
  rw [List.append_nil] at hfields
  exact (interpret_distance _ _ _ (sampleData fields)).trans hfields

theorem rxChunk_sampleFrame {c : Config} {p : ParserState} (fields : Half × Half × Half) (hc : c.legal)
    (hclear : p.overflowed = false) (hst : p.st = .waitStart) :
    ∃ q, rxChunk c (encodeFrame opcDistance 0 (sampleData fields)) p = .ok ([sampleEvent fields], q) ∧
      q.st = .waitStart ∧ q.overflowed = false := by
  have hall := rxAll_encodeFrame (p := p) opcDistance 0 (val := sampleData fields) hc hclear hst (by simp [sampleData])
  rw [rxChunk_of_rxAll hall, filter_isSome_of_last _ rfl]
  exact ⟨_, rfl, rfl, rfl⟩

/-- Any number of whole frames: the event of each, in order, and the decoder waits for a start byte again (R169, R178). -/
theorem rxChunk_sampleFrames {c : Config} {p : ParserState} (samples : List (Half × Half × Half)) (hc : c.legal)
    (hclear : p.overflowed = false) (hst : p.st = .waitStart) :
    ∃ q, rxChunk c (samples.map fun m => encodeFrame opcDistance 0 (sampleData m)).flatten p =
        .ok (samples.map sampleEvent, q) ∧ q.st = .waitStart := by
  induction samples generalizing p with
  | nil => exact ⟨p, rfl, hst⟩
  | cons m samples ih =>
    obtain ⟨r, hfirst, hrst, hrclear⟩ := rxChunk_sampleFrame m hc hclear hst
    obtain ⟨q, hrest, hqst⟩ := ih hrclear hrst
    refine ⟨q, ?_, hqst⟩
    rw [List.map_cons, List.flatten_cons, rxChunk_append_eq_bind, hfirst]
    exact congrArg (Except.map _) hrest

theorem findSome?_refusal?_sampleEvents (samples : List (Half × Half × Half)) :
    (samples.map sampleEvent).findSome? Event.refusal? = none := by
  refine List.findSome?_eq_none_iff.mpr fun e he => ?_
  obtain ⟨m, _, rfl⟩ := List.mem_map.mp he
  exact refusal?_frame_of_ok 0 (interpret_sampleFrame m)

/-- One sample for each frame, in order, and nothing else (R206). -/
theorem handOverAll_sampleEvents (samples : List (Half × Half × Half)) (s : State) :
    handOverAll (samples.map sampleEvent) s =
      { s with pending := s.pending ++ samples.map fun m => distanceSample m.1 m.2.1 m.2.2 } := by
  induction samples generalizing s with
  | nil => simp [handOverAll]
  | cons m samples ih =>
    have hfirst : handOver (sampleEvent m) s = s.enqueue (distanceSample m.1 m.2.1 m.2.2) :=
      handOver_frame_of_ok 0 s (interpret_sampleFrame m)
    rw [List.map_cons, handOverAll, hfirst, ih]
    simp [State.enqueue]

/-- Settles O52: the frames are one chunk with one event each, and each event queues its sample. -/
theorem pollQueuesEachSampleInOrder : Obligations.PollQueuesEachSampleInOrder := by
  intro s samples hc hopen hclear hst hrx
  have hframes : s.rx = (samples.map fun m => encodeFrame opcDistance 0 (sampleData m)).flatten := hrx
  obtain ⟨q, hchunk, hqst⟩ := rxChunk_sampleFrames samples hc hclear hst
  rw [← hframes] at hchunk
  have hdeliver := receiveAndDeliver_of_ok (s := { s with rx := [] }) hchunk (findSome?_refusal?_sampleEvents samples)
  rw [handOverAll_sampleEvents] at hdeliver
  exact ⟨_, (poll_of_linkOpen hopen).trans hdeliver, rfl, rfl, hqst, rfl, rfl, rfl, rfl⟩

/-! ### The queue and the link -/

/-- Settles O51: the record of refused frames is all a drain looks at. -/
theorem drainTakesWholeQueue : Obligations.DrainTakesWholeQueue := by
  have hdrain {s : State} (h : s.interpRefused = none) :
      drainDistanceResults s = .next (({ s with pending := [] } : State).answer (.samples s.pending)) := by
    simp only [drainDistanceResults, h]
  refine ⟨fun s h => ⟨hdrain h, hdrain (s := { s with pending := [], result := .samples s.pending }) h⟩, fun s r h => ?_⟩
  simp only [serveCall, drainDistanceResults, h]

theorem serve_arrive_of_linkOpen {s : State} (h : s.linkOpen = true) (bytes : List Byte) :
    serve (.arrive bytes) s = .next { s with rx := s.rx ++ bytes } := by
  simp only [serve, arrive, if_pos h]

/-- Settles O58: an open link appends what arrives. -/
theorem arrivingBytesAreKeptInOrder : Obligations.ArrivingBytesAreKeptInOrder := by
  refine fun s hopen => ⟨serve_arrive_of_linkOpen hopen, fun xs ys => ?_, fun bytes rest hin => ?_⟩
  · rw [serve_arrive_of_linkOpen (s := { s with rx := s.rx ++ xs }) hopen, serve_arrive_of_linkOpen hopen,
      List.append_assoc]
  · rw [step_of_inputs_cons hin, serve_arrive_of_linkOpen (s := { s with inputs := rest }) hopen]

/-! ### The session start -/

/-- Commands sent one after the other on an open link: their frames in order, and the last one's is the answer (R139). -/
theorem foldl_emitFrame_concat (commands : List CatalogStep) (last : CatalogStep) {s : State} (h : s.linkOpen = true) :
    (commands ++ [last]).foldl (fun t step => t.emitFrame (catalogFrame t.cfg step)) s =
      { s with
        tx := s.tx ++ (commands ++ [last]).map (catalogFrame s.cfg)
        result := .bytes (catalogFrame s.cfg last) } := by
  induction commands generalizing s with
  | nil => simp [State.emitFrame, State.writeAll, State.answer, h]
  | cons command commands ih =>
    rw [List.cons_append, List.foldl_cons, ih (s := s.emitFrame (catalogFrame s.cfg command)) h]
    simp [State.emitFrame, State.writeAll, State.answer, h]

theorem encodeFrame_scanDisable :
    encodeFrame opcScanEnable 1 [0] = [0xAA, 0x81, 0x00, 0x60, 0x00, 0x6C, 0xCC] := by decide

theorem encodeFrame_productRequest :
    encodeFrame opcProductName 0 [] = [0xAA, 0x40, 0x00, 0x00, 0x70, 0x9F] := by decide

theorem catalogFrame_of_free {step : CatalogStep} (c : Config) (hdisable : step ≠ .disableScanning)
    (hproduct : step ≠ .requestProduct) (henable : step ≠ .enableScanning) :
    catalogFrame c step = writeFrame c (Config.catalogWrite step) := by
  cases step with
  | disableScanning => exact absurd rfl hdisable
  | requestProduct => exact absurd rfl hproduct
  | enableScanning => exact absurd rfl henable
  | disableStreaming | setLowAngle | setHighAngle | setUpdateRate | setCycleSpeed | setDistanceInfo
  | enableStreaming => rfl

/-- Settles O54: the ten commands are nine and the last one, sent over the link that `open` has opened. -/
theorem connectSendsSessionStart : Obligations.ConnectSendsSessionStart := by
  refine ⟨fun s identifier baudRate => ⟨?_, rfl⟩, rfl, fun c => ⟨encodeFrame_scanDisable, encodeFrame_productRequest,
    encodeFrame_scanEnable, fun step => catalogFrame_of_free c, fun op v => ⟨?_, ?_, rfl, rfl⟩⟩⟩
  · exact congrArg Host.Outcome.next (foldl_emitFrame_concat
      [.disableStreaming, .disableScanning, .requestProduct, .setLowAngle, .setHighAngle, .setUpdateRate, .setCycleSpeed,
        .setDistanceInfo, .enableStreaming] .enableScanning
      (s := ({ s with linkOpen := true } : State).setParser s.parser.decReset) rfl)
  · rw [← BitVec.setWidth_eq_extractLsb' (by decide)]
    rfl
  · rw [← BitVec.setWidth_eq_extractLsb' (by decide)]
    rfl

end Sys2Proof.Machine

namespace Sys2Proof.Machine

/-! ### A recorded overflow -/

theorem rxByte_of_overflowed {p : ParserState} (c : Config) (b : Byte) (h : p.overflowed = true) :
    rxByte c b p = .error .bufferOverflow :=
  rxByte_error_iff.mpr ⟨h, rfl⟩

/-- The only stream a decoder takes after `EV_OVERFLOW` is the empty one, which moves nothing (R233). -/
theorem eq_of_rxAll_of_overflowed {c : Config} {bytes : List Byte} {p q : ParserState} {es : List Event}
    (hover : p.overflowed = true) (h : rxAll c bytes p = .ok (es, q)) : q = p := by
  cases bytes with
  | nil =>
    obtain ⟨_, hq⟩ := Prod.mk.inj (Except.ok.inj h)
    exact hq.symm
  | cons b bytes => exact nomatch (rxAll_cons_of_error bytes (rxByte_of_overflowed c b hover)).symm.trans h

theorem rxAll_of_receiveChunk {bytes : List Byte} {s t : State} (h : receiveChunk bytes s = .next t) :
    ∃ es, rxAll s.cfg bytes s.parser = .ok (es, t.parser) := by
  obtain ⟨_, _, hchunk, rfl⟩ := receiveChunk_next h
  obtain ⟨all, hall, _⟩ := rxChunk_ok hchunk
  exact ⟨all, hall⟩

theorem rxAll_of_receiveAndDeliver {bytes : List Byte} {s t : State} (h : receiveAndDeliver bytes s = .next t) :
    ∃ es, rxAll s.cfg bytes s.parser = .ok (es, t.parser) := by
  obtain ⟨es, p, hchunk, _, rfl⟩ := receiveAndDeliver_next h
  obtain ⟨all, hall, _⟩ := rxChunk_ok hchunk
  obtain ⟨_, hparser, _⟩ := handOverAll_frame es ((s.setParser p).answer (.handed es))
  exact ⟨all, hparser ▸ hall⟩

/-- Every operation but `DEC.RESET` moves ParserState by giving it bytes, if at all (R34). -/
theorem rxAll_of_exec {i : Instr} {s t : State} (hi : i ≠ .decReset) (h : exec i s = .next t) :
    ∃ bytes es, rxAll s.cfg bytes s.parser = .ok (es, t.parser) := by
  cases i with
  | decReset => exact absurd rfl hi
  | decRx b =>
    obtain ⟨e, p, hbyte, rfl⟩ := execDecRx_next h
    exact ⟨[b], [e], by rw [rxAll_cons hbyte]; rfl⟩
  | decRxn | frameRx => exact ⟨_, rxAll_of_receiveChunk h⟩
  | msgProductName | msgDistanceSample => exact ⟨_, rxAll_of_receiveAndDeliver h⟩
  | encFrame op wf val =>
    rw [execEncFrame_next h]
    exact ⟨[], [], rfl⟩
  | selD | selE | selF => exact nomatch h
  | _ =>
    obtain rfl := Host.Outcome.next.inj h
    exact ⟨[], [], rfl⟩

/-- Settles O60: a recorded overflow makes every byte a fault, so the operations of a run that completes gave the decoder
none, and only `DEC.RESET` moves ParserState in another way. -/
theorem overflowLastsUntilReset : Obligations.OverflowLastsUntilReset := by
  refine ⟨fun s b bytes hover => ?_, fun ops s t rs hover hops hrun => ?_, fun s => ⟨_, rfl, rfl⟩, rfl⟩
  · have hbyte := rxByte_of_overflowed s.cfg b hover
    exact ⟨exec_decRx_fault_iff.mpr hbyte,
      receiveChunk_fault_iff.mpr (rxChunk_error_iff.mpr (rxAll_cons_of_error bytes hbyte))⟩
  · induction ops generalizing s rs with
    | nil =>
      obtain ⟨_, rfl⟩ := Prod.mk.inj (Option.some.inj hrun)
      rfl
    | cons i ops ih =>
      obtain ⟨u, rs', hexec, hrest, rfl⟩ := runOps_cons_some hrun
      obtain ⟨_, _, hall⟩ := rxAll_of_exec (List.ne_of_not_mem_cons hops).symm hexec
      have hu : u.parser = s.parser := eq_of_rxAll_of_overflowed hover hall
      exact (ih u rs' (hu ▸ hover) (List.not_mem_of_not_mem_cons hops) hrest).trans hu

/-! ### A link that is not open -/

/-- A frame for a closed link is answered and not written (R235). -/
theorem emitFrame_of_linkClosed {s : State} (h : s.linkOpen = false) (bytes : List Byte) :
    s.emitFrame bytes = s.answer (.bytes bytes) := by
  have hclosed : ¬ s.linkOpen = true := by simp [h]
  simp only [State.emitFrame, State.writeAll, if_neg hclosed]

theorem poll_of_linkClosed {s : State} (h : s.linkOpen = false) : poll s = .next (s.answer .none) := by
  simp [poll, h]

theorem arrive_of_linkClosed {s : State} (h : s.linkOpen = false) (bytes : List Byte) : arrive bytes s = s := by
  simp [arrive, h]

theorem drainDistanceResults_next {s t : State} (h : drainDistanceResults s = .next t) :
    t = ({ s with pending := [] } : State).answer (.samples s.pending) := by
  unfold drainDistanceResults at h
  split at h
  · exact nomatch h
  · exact (Host.Outcome.next.inj h).symm

theorem exec_tx_of_linkClosed {i : Instr} {s t : State} (hclosed : s.linkOpen = false) (h : exec i s = .next t) :
    t.tx = s.tx := by
  cases exec_effect h with
  | wroteCrc v hsel ht => rw [ht, State.answer_tx, State.setCrc_tx]
  | readChecksum v hsel ht => rw [ht, State.answer_tx]
  | sent bytes hsel ht => rw [ht, emitFrame_of_linkClosed hclosed, State.answer_tx]
  | decoded p r hsel hmove ht => rw [ht, State.answer_tx, State.setParser_tx]
  | delivered p es hsel hmove ht =>
    obtain ⟨_, _, _, _, _, _, htx, _⟩ := handOverAll_frame es ((s.setParser p).answer (.handed es))
    rw [ht, htx, State.answer_tx, State.setParser_tx]

/-- Of the calls of the layer above only a `connect` whose `open` succeeds opens the link or writes to it (R211, R235). -/
theorem serveCall_frame_of_linkClosed {call : HostCall} {s t : State} (hclosed : s.linkOpen = false)
    (hcall : ∀ identifier baudRate, call ≠ .connect identifier baudRate true) (h : serveCall call s = .next t) :
    t.tx = s.tx ∧ t.linkOpen = false := by
  cases call with
  | connect identifier baudRate opened =>
    cases opened with
    | true => exact absurd rfl (hcall identifier baudRate)
    | false =>
      obtain rfl := Host.Outcome.next.inj h
      exact ⟨rfl, rfl⟩
  | poll =>
    obtain rfl := Host.Outcome.next.inj ((poll_of_linkClosed hclosed).symm.trans h)
    exact ⟨rfl, hclosed⟩
  | drainDistanceResults =>
    rw [drainDistanceResults_next h]
    exact ⟨rfl, hclosed⟩
  | sendGetProduct | sendWriteInt8 | sendWriteInt16 | sendWriteInt32 | sendWriteFloat | sendScanEnable | sendScanDisable
  | sendWritePosition =>
    obtain rfl := Host.Outcome.next.inj h
    rw [emitFrame_of_linkClosed hclosed]
    exact ⟨rfl, hclosed⟩

/-- Settles O53: everything that would write to the link or take bytes from it looks at whether it is open. -/
theorem closedLinkCarriesNothing : Obligations.ClosedLinkCarriesNothing :=
  fun _ hclosed => ⟨poll_of_linkClosed hclosed, fun _ _ => exec_tx_of_linkClosed hclosed,
    fun _ _ => serveCall_frame_of_linkClosed hclosed,
    fun bytes => congrArg Host.Outcome.next (arrive_of_linkClosed hclosed bytes)⟩

/-! ### Idling, and the numbers of the debug interface -/

/-- Settles O49: a step looks at the input list first (log entry 2). -/
theorem nothingHappensWithoutInput : Obligations.NothingHappensWithoutInput := by
  intro s hinputs
  simp only [step, hinputs]

/-- Settles O55: the values of the three code functions and of the state numbers, case by case. -/
theorem eventCodesAndStateNumbers : Obligations.EventCodesAndStateNumbers :=
  ⟨rfl, fun _ _ _ => rfl, fun _ _ => rfl, fun _ => rfl, rfl, fun _ => rfl, rfl, rfl, rfl, rfl⟩

end Sys2Proof.Machine
